-- ==== Sys2Proof/Word.lean ====
section
/-! DEFINITION. The widths the block moves: bytes (00_scope.md R11) and 32-bit command words and payload patterns
(30_encoding.md R90, 20_memory.md R62). The block does no signed arithmetic (R11). -/

namespace Sys2Proof

/-- A byte, 8 bits (00_scope.md R11). -/
abbrev Byte := BitVec 8

/-- A 32-bit value: a command word (30_encoding.md R90) or the pattern of a payload (20_memory.md R63). -/
abbrev Word := BitVec 32

end Sys2Proof
end

