-- ==== Sys2Proof/Config.lean ====
section
/-! DEFINITION. The parameters of the block (00_scope.md R10): the BusEvents, the shape of `STATUS_TABLE` and the two
delimiters. `OWN_ADDR` and `REG_MAP` are read by no rule of the block and have no field here. -/

namespace Sys2Proof

/-- The semantic classification of a status code: nineteen named events or `Unhandled` (30_encoding.md R97, R98), in the
order of the index of R97. -/
inductive BusEvent where
  | startSent
  | repeatedStartSent
  | addressWriteAckReceived
  | addressWriteNackReceived
  | addressReadAckReceived
  | addressReadNackReceived
  | masterByteSentAck
  | masterByteSentNack
  | masterByteReceivedAckSent
  | masterByteReceivedNackSent
  | arbitrationLost
  | slaveAddressedForWrite
  | slaveAddressedForRead
  | generalCallAddressed
  | slaveByteReceivedAckSent
  | slaveByteReceivedNackSent
  | slaveByteSentAckReceived
  | slaveByteSentNackReceived
  | slaveStopOrRepeatedStartReceived
  | unhandled
deriving DecidableEq, Repr

/-- One row of `STATUS_TABLE`: a 5-bit BusStatusCode and the event it stands for (30_encoding.md R99). -/
structure StatusRow where
  code : BitVec 5
  event : BusEvent
deriving DecidableEq, Repr

/-- The open parameters of a machine (00_scope.md R10). Only `STATUS_TABLE` is read by a rule. -/
structure Config where
  /-- `STATUS_TABLE`, OPEN (30_encoding.md R99): the codes the table lists. -/
  statusTable : List StatusRow
deriving DecidableEq, Repr

/-- What 30_encoding.md R100 asks of any table: no code is listed twice, and a row names one of the nineteen events
(`Unhandled` is what an unlisted code decodes to). -/
abbrev Config.wf (c : Config) : Prop :=
  (c.statusTable.map (·.code)).Nodup ∧ ∀ r ∈ c.statusTable, r.event ≠ .unhandled

/-- `START_DELIM`, the ASCII pipe (00_scope.md R10, 30_encoding.md R110). -/
def startDelim : Byte := 0x7C#8

/-- `END_DELIM`, the ASCII carriage return (00_scope.md R10, 30_encoding.md R110). -/
def endDelim : Byte := 0x0D#8

end Sys2Proof
end

