-- ==== Sys2Proof/Syntax.lean ====
section
/-! DEFINITION. The inputs of the block as syntax: one constructor of `Instr` per row of spec/opcode_table.json. The block
takes three kinds of input (30_encoding.md R90): command words, BusEvents dispatched by the slave handler, and bytes
delivered to the frame decoder. -/

namespace Sys2Proof

/-- The direction of SADDR (30_encoding.md R93). -/
inductive Direction where
  | write
  | read
deriving DecidableEq, Repr

/-- The acknowledge policy of RBYTE (30_encoding.md R93). -/
inductive AckPolicy where
  | nack
  | ack
deriving DecidableEq, Repr

/-- The logical devices (30_encoding.md R104). -/
inductive DeviceId where
  | motor
  | accelerometer
  | temperatureSensor
deriving DecidableEq, Repr

/-- The rows of spec/opcode_table.json. `deferred` is the `DEFER` bit of a command word (30_encoding.md R91). -/
inductive Instr where
  /-- START, 40_bus_engine.md R126. -/
  | start (deferred : Bool)
  /-- RSTART, 40_bus_engine.md R127. -/
  | rstart (deferred : Bool)
  /-- STOP, 40_bus_engine.md R128. -/
  | stop (deferred : Bool)
  /-- SADDR, 40_bus_engine.md R129. -/
  | saddr (deferred : Bool) (dir : Direction) (addr : BitVec 7)
  /-- SBYTE, 40_bus_engine.md R130. -/
  | sbyte (deferred : Bool) (data : Byte)
  /-- RBYTE, 40_bus_engine.md R131. -/
  | rbyte (deferred : Bool) (policy : AckPolicy)
  /-- LISTEN, 40_bus_engine.md R132. -/
  | listen (deferred : Bool)
  /-- RDDEV, 41_master_protocol.md R150; the DeviceId is typed as the enumeration of three (R151). -/
  | rddev (peer : BitVec 7) (dev : DeviceId)
  /-- A command word with a reserved OP, 30_encoding.md R95; `rest` is the word's bits 27:0, which may be anything. -/
  | reservedOp (op : BitVec 4) (rest : BitVec 28)
  /-- RXBYTE in any decoder state, 43_frame_decoder.md R190. -/
  | rxbyte (b : Byte)
  /-- The start delimiter outside a frame, 43_frame_decoder.md R191. -/
  | rxbyteSOut
  /-- Any other byte outside a frame, 43_frame_decoder.md R192. -/
  | rxbyteEXOut (b : Byte)
  /-- The start delimiter inside a frame, 43_frame_decoder.md R193. -/
  | rxbyteSIn
  /-- Any other byte with the buffer full, 43_frame_decoder.md R194. -/
  | rxbyteFull (b : Byte)
  /-- The end delimiter inside a frame, 43_frame_decoder.md R195. -/
  | rxbyteEIn
  /-- An ordinary byte inside a frame, 43_frame_decoder.md R196. -/
  | rxbyteXIn (b : Byte)
  /-- 42_slave_protocol.md R172. -/
  | evtSlaveAddressedForWrite
  /-- 42_slave_protocol.md R173. -/
  | evtSlaveByteReceivedAckSent
  /-- 42_slave_protocol.md R174. -/
  | evtSlaveAddressedForRead
  /-- 42_slave_protocol.md R176. -/
  | evtSlaveByteSentAckReceived
  /-- 42_slave_protocol.md R177. -/
  | evtSlaveStopOrRepeatedStartReceived
  /-- 42_slave_protocol.md R179. -/
  | evtSlaveByteSentNackReceived
  /-- 42_slave_protocol.md R180. -/
  | evtUnhandled
  /-- The thirteen events the handler ignores, 42_slave_protocol.md R178. -/
  | evtOther (event : BusEvent)
deriving DecidableEq, Repr

end Sys2Proof
end

