-- ==== Sys2Proof/WellFormed.lean ====
section
/-! DEFINITION. Which terms of `Instr` are rows of spec/opcode_table.json: the operand checks the constructors' types do not
already carry. -/

namespace Sys2Proof

/-- The reserved operation codes, 0x0 and 0x9 to 0xF (30_encoding.md R92, R95). -/
def isReservedOp (op : BitVec 4) : Bool := op == 0#4 || 9 ≤ op.toNat

/-- The thirteen events of 42_slave_protocol.md R178: indices 0x01 to 0x0B, 0x0E and 0x10. -/
def BusEvent.isOther : BusEvent → Bool
  | .startSent | .repeatedStartSent | .addressWriteAckReceived | .addressWriteNackReceived
  | .addressReadAckReceived | .addressReadNackReceived | .masterByteSentAck | .masterByteSentNack
  | .masterByteReceivedAckSent | .masterByteReceivedNackSent | .arbitrationLost
  | .generalCallAddressed | .slaveByteReceivedNackSent => true
  | .slaveAddressedForWrite | .slaveAddressedForRead | .slaveByteReceivedAckSent
  | .slaveByteSentAckReceived | .slaveByteSentNackReceived
  | .slaveStopOrRepeatedStartReceived | .unhandled => false

/-- The operand checks of the opcode table's rows. -/
def Instr.wellFormed : Instr → Bool
  | .start _ | .rstart _ | .stop _ | .saddr _ _ _ | .sbyte _ _ | .rbyte _ _ | .listen _ | .rddev _ _ => true
  | .reservedOp op _ => isReservedOp op
  | .rxbyte _ => true
  | .rxbyteSOut | .rxbyteSIn | .rxbyteEIn => true
  | .rxbyteEXOut b => b != startDelim
  | .rxbyteFull b => b != startDelim
  | .rxbyteXIn b => b != startDelim && b != endDelim
  | .evtSlaveAddressedForWrite | .evtSlaveByteReceivedAckSent | .evtSlaveAddressedForRead
  | .evtSlaveByteSentAckReceived | .evtSlaveStopOrRepeatedStartReceived
  | .evtSlaveByteSentNackReceived | .evtUnhandled => true
  | .evtOther e => e.isOther

end Sys2Proof
end

