-- ==== Sys2Proof/Decode.lean ====
section
/-! DEFINITION. From bits to instructions and back: the status decode (40_bus_engine.md R121), the command word
(30_encoding.md R91 to R95), the BusEvent index (R97), the byte classes (R117), the decoder over all three kinds of input
(R90), and after it the encoder. Every function is total; what is no instruction is rejected by name. -/

namespace Sys2Proof

/-! ## BusEvents and the status decode -/

/-- The index of an event (30_encoding.md R97). -/
def BusEvent.index : BusEvent → Byte
  | .startSent => 0x01#8
  | .repeatedStartSent => 0x02#8
  | .addressWriteAckReceived => 0x03#8
  | .addressWriteNackReceived => 0x04#8
  | .addressReadAckReceived => 0x05#8
  | .addressReadNackReceived => 0x06#8
  | .masterByteSentAck => 0x07#8
  | .masterByteSentNack => 0x08#8
  | .masterByteReceivedAckSent => 0x09#8
  | .masterByteReceivedNackSent => 0x0A#8
  | .arbitrationLost => 0x0B#8
  | .slaveAddressedForWrite => 0x0C#8
  | .slaveAddressedForRead => 0x0D#8
  | .generalCallAddressed => 0x0E#8
  | .slaveByteReceivedAckSent => 0x0F#8
  | .slaveByteReceivedNackSent => 0x10#8
  | .slaveByteSentAckReceived => 0x11#8
  | .slaveByteSentNackReceived => 0x12#8
  | .slaveStopOrRepeatedStartReceived => 0x13#8
  | .unhandled => 0x14#8

/-- The twenty events in the order of their index (30_encoding.md R97). -/
def BusEvent.all : List BusEvent :=
  [.startSent, .repeatedStartSent, .addressWriteAckReceived, .addressWriteNackReceived, .addressReadAckReceived,
   .addressReadNackReceived, .masterByteSentAck, .masterByteSentNack, .masterByteReceivedAckSent,
   .masterByteReceivedNackSent, .arbitrationLost, .slaveAddressedForWrite, .slaveAddressedForRead,
   .generalCallAddressed, .slaveByteReceivedAckSent, .slaveByteReceivedNackSent, .slaveByteSentAckReceived,
   .slaveByteSentNackReceived, .slaveStopOrRepeatedStartReceived, .unhandled]

/-- The event an index names, if it names one (30_encoding.md R97). -/
def BusEvent.ofIndex (ix : Byte) : Option BusEvent := BusEvent.all.find? (fun e => e.index == ix)

/-- The BusStatusCode of the status register, `STAT[7:3]`; `STAT[2:0]` is masked away (10_state.md R24, 30_encoding.md
R101). -/
def statusCode (stat : Byte) : BitVec 5 := stat.extractLsb' 3 5

/-- `Decode(c)`: the event the table lists for the code, otherwise `Unhandled` (40_bus_engine.md R121). -/
def decodeStatus (c : Config) (code : BitVec 5) : BusEvent :=
  match c.statusTable.find? (fun r => r.code == code) with
  | some r => r.event
  | none => .unhandled

/-- The default `STATUS_TABLE` (30_encoding.md R99), which the spec marks as general knowledge; no statement rests on it
(log 4). -/
def defaultStatusTable : List StatusRow :=
  [⟨1#5, .startSent⟩, ⟨2#5, .repeatedStartSent⟩, ⟨3#5, .addressWriteAckReceived⟩, ⟨4#5, .addressWriteNackReceived⟩,
   ⟨5#5, .masterByteSentAck⟩, ⟨6#5, .masterByteSentNack⟩, ⟨7#5, .arbitrationLost⟩, ⟨8#5, .addressReadAckReceived⟩,
   ⟨9#5, .addressReadNackReceived⟩, ⟨10#5, .masterByteReceivedAckSent⟩, ⟨11#5, .masterByteReceivedNackSent⟩,
   ⟨12#5, .slaveAddressedForWrite⟩, ⟨14#5, .generalCallAddressed⟩, ⟨16#5, .slaveByteReceivedAckSent⟩,
   ⟨17#5, .slaveByteReceivedNackSent⟩, ⟨20#5, .slaveStopOrRepeatedStartReceived⟩, ⟨21#5, .slaveAddressedForRead⟩,
   ⟨23#5, .slaveByteSentAckReceived⟩, ⟨24#5, .slaveByteSentNackReceived⟩]

/-- A status byte that decodes to the event, if the table has one: a listed code, or for `Unhandled` a code the table
does not list. It serves `withFetchWord` only (log 10). -/
def statusFor (c : Config) (e : BusEvent) : Option Byte :=
  ((List.range 32).find? (fun n => decodeStatus c (BitVec.ofNat 5 n) == e)).map (fun n => BitVec.ofNat 5 n ++ 0#3)

/-! ## DeviceIds, directions, acknowledge policies -/

/-- The byte of a DeviceId (30_encoding.md R104). -/
def DeviceId.code : DeviceId → Byte
  | .motor => 0x01#8
  | .accelerometer => 0x02#8
  | .temperatureSensor => 0x03#8

/-- The device a byte names; every other byte names none (30_encoding.md R104). `ValidDev(d)` of 00_scope.md R12 is
`(DeviceId.ofByte d).isSome`. -/
def DeviceId.ofByte (b : Byte) : Option DeviceId :=
  if b = 0x01#8 then some .motor
  else if b = 0x02#8 then some .accelerometer
  else if b = 0x03#8 then some .temperatureSensor
  else none

/-- `dir` of the address byte: 0 for Write, 1 for Read (30_encoding.md R103). -/
def Direction.bit : Direction → BitVec 1
  | .write => 0#1
  | .read => 1#1

/-- `MOD` of SADDR: 0b00 Write, 0b01 Read; the other two are invalid (30_encoding.md R93). -/
def Direction.ofMod (m : BitVec 2) : Option Direction :=
  if m = 0#2 then some .write else if m = 1#2 then some .read else none

/-- `ARM_ACK` of a policy: Ack 1, Nack 0 (30_encoding.md R109, 10_state.md R28). -/
def AckPolicy.bit : AckPolicy → Bool
  | .nack => false
  | .ack => true

/-- `MOD` of RBYTE: 0b00 Nack, 0b01 Ack; the other two are invalid (30_encoding.md R93). -/
def AckPolicy.ofMod (m : BitVec 2) : Option AckPolicy :=
  if m = 0#2 then some .nack else if m = 1#2 then some .ack else none

/-! ## The command word -/

/-- `OP`, bits 31:28 (30_encoding.md R91). -/
def cmdOp (w : Word) : BitVec 4 := w.extractLsb' 28 4
/-- `DEFER`, bit 27 (30_encoding.md R91). -/
def cmdDefer (w : Word) : Bool := w.getLsbD 27
/-- `RSV`, bits 26:18 (30_encoding.md R91). -/
def cmdRsv (w : Word) : BitVec 9 := w.extractLsb' 18 9
/-- `MOD`, bits 17:16 (30_encoding.md R91). -/
def cmdMod (w : Word) : BitVec 2 := w.extractLsb' 16 2
/-- `ARG1`, bits 15:8 (30_encoding.md R91). -/
def cmdArg1 (w : Word) : Byte := w.extractLsb' 8 8
/-- `ARG0`, bits 7:0 (30_encoding.md R91). -/
def cmdArg0 (w : Word) : Byte := w.extractLsb' 0 8

/-- A command word from its fields (30_encoding.md R91). -/
def packCmd (op : BitVec 4) (deferred : Bool) (rsv : BitVec 9) (mod : BitVec 2) (arg1 arg0 : Byte) : Word :=
  op ++ BitVec.ofBool deferred ++ rsv ++ mod ++ arg1 ++ arg0

/-- Why an input is no instruction. Each is a caller-input error of 30_encoding.md R95, but for the last, which is no
input of the block at all. -/
inductive DecodeError where
  /-- `RSV` is not zero (30_encoding.md R94). -/
  | reservedFieldNotZero
  /-- `MOD` is not zero where it must be (30_encoding.md R94). -/
  | modNotZero
  /-- `MOD` of SADDR is neither direction (30_encoding.md R93). -/
  | badDirection
  /-- `MOD` of RBYTE is neither policy (30_encoding.md R93). -/
  | badAckPolicy
  /-- `ARG1` is not zero where it must be (30_encoding.md R94). -/
  | arg1NotZero
  /-- `ARG0` is not zero where it must be (30_encoding.md R94). -/
  | arg0NotZero
  /-- Bit 7 of an address is set (30_encoding.md R94). -/
  | addressBit7Set
  /-- RDDEV with `DEFER = 1` (30_encoding.md R94). -/
  | deferNotAllowed
  /-- RDDEV with a DeviceId outside 1 to 3 (41_master_protocol.md R151). -/
  | notADevice
  /-- A byte that is the index of no BusEvent (30_encoding.md R97). -/
  | notAnEvent
deriving DecidableEq, Repr

/-- A word whose fields below `OP` are all zero but `DEFER` (30_encoding.md R94, first row). -/
def decodePlain (w : Word) (i : Instr) : Except DecodeError Instr :=
  if cmdMod w ≠ 0#2 then .error .modNotZero
  else if cmdArg1 w ≠ 0#8 then .error .arg1NotZero
  else if cmdArg0 w ≠ 0#8 then .error .arg0NotZero
  else .ok i

/-- SADDR (30_encoding.md R94). -/
def decodeSaddr (w : Word) : Except DecodeError Instr :=
  match Direction.ofMod (cmdMod w) with
  | none => .error .badDirection
  | some dir =>
    if cmdArg1 w ≠ 0#8 then .error .arg1NotZero
    else if (cmdArg0 w).getLsbD 7 then .error .addressBit7Set
    else .ok (.saddr (cmdDefer w) dir ((cmdArg0 w).extractLsb' 0 7))

/-- SBYTE (30_encoding.md R94). -/
def decodeSbyte (w : Word) : Except DecodeError Instr :=
  if cmdMod w ≠ 0#2 then .error .modNotZero
  else if cmdArg1 w ≠ 0#8 then .error .arg1NotZero
  else .ok (.sbyte (cmdDefer w) (cmdArg0 w))

/-- RBYTE (30_encoding.md R94). -/
def decodeRbyte (w : Word) : Except DecodeError Instr :=
  match AckPolicy.ofMod (cmdMod w) with
  | none => .error .badAckPolicy
  | some policy =>
    if cmdArg1 w ≠ 0#8 then .error .arg1NotZero
    else if cmdArg0 w ≠ 0#8 then .error .arg0NotZero
    else .ok (.rbyte (cmdDefer w) policy)

/-- RDDEV (30_encoding.md R94, 41_master_protocol.md R151). -/
def decodeRddev (w : Word) : Except DecodeError Instr :=
  if cmdDefer w then .error .deferNotAllowed
  else if cmdMod w ≠ 0#2 then .error .modNotZero
  else
    match DeviceId.ofByte (cmdArg1 w) with
    | none => .error .notADevice
    | some dev =>
      if (cmdArg0 w).getLsbD 7 then .error .addressBit7Set
      else .ok (.rddev ((cmdArg0 w).extractLsb' 0 7) dev)

/-- A command word (30_encoding.md R92, R94, R95). -/
def decodeCmd (w : Word) : Except DecodeError Instr :=
  if isReservedOp (cmdOp w) then .ok (.reservedOp (cmdOp w) (w.extractLsb' 0 28))
  else if cmdRsv w ≠ 0#9 then .error .reservedFieldNotZero
  else if cmdOp w = 0x1#4 then decodePlain w (.start (cmdDefer w))
  else if cmdOp w = 0x2#4 then decodePlain w (.rstart (cmdDefer w))
  else if cmdOp w = 0x3#4 then decodePlain w (.stop (cmdDefer w))
  else if cmdOp w = 0x4#4 then decodeSaddr w
  else if cmdOp w = 0x5#4 then decodeSbyte w
  else if cmdOp w = 0x6#4 then decodeRbyte w
  else if cmdOp w = 0x7#4 then decodePlain w (.listen (cmdDefer w))
  else decodeRddev w

/-! ## BusEvents as instructions of the handler -/

/-- The handler's transition that names the event (42_slave_protocol.md R171 to R180). -/
def decodeEvent : BusEvent → Instr
  | .slaveAddressedForWrite => .evtSlaveAddressedForWrite
  | .slaveByteReceivedAckSent => .evtSlaveByteReceivedAckSent
  | .slaveAddressedForRead => .evtSlaveAddressedForRead
  | .slaveByteSentAckReceived => .evtSlaveByteSentAckReceived
  | .slaveStopOrRepeatedStartReceived => .evtSlaveStopOrRepeatedStartReceived
  | .slaveByteSentNackReceived => .evtSlaveByteSentNackReceived
  | .unhandled => .evtUnhandled
  | .startSent => .evtOther .startSent
  | .repeatedStartSent => .evtOther .repeatedStartSent
  | .addressWriteAckReceived => .evtOther .addressWriteAckReceived
  | .addressWriteNackReceived => .evtOther .addressWriteNackReceived
  | .addressReadAckReceived => .evtOther .addressReadAckReceived
  | .addressReadNackReceived => .evtOther .addressReadNackReceived
  | .masterByteSentAck => .evtOther .masterByteSentAck
  | .masterByteSentNack => .evtOther .masterByteSentNack
  | .masterByteReceivedAckSent => .evtOther .masterByteReceivedAckSent
  | .masterByteReceivedNackSent => .evtOther .masterByteReceivedNackSent
  | .arbitrationLost => .evtOther .arbitrationLost
  | .generalCallAddressed => .evtOther .generalCallAddressed
  | .slaveByteReceivedNackSent => .evtOther .slaveByteReceivedNackSent

/-! ## Received bytes -/

/-- The byte classes of the frame decoder (30_encoding.md R117). -/
inductive ByteClass where
  | startClass
  | endClass
  | otherClass
deriving DecidableEq, Repr

/-- Classification by equality only (30_encoding.md R117). -/
def classify (b : Byte) : ByteClass :=
  if b = startDelim then .startClass else if b = endDelim then .endClass else .otherClass

/-- The column "context" of the opcode table's RXBYTE rows. -/
inductive RxContext where
  /-- Row RXBYTE: the decoder's state is not said. -/
  | anyState
  /-- `FIN = 0`. -/
  | outside
  /-- `FIN = 1`, the buffer not full. -/
  | capturing
  /-- `FIN = 1`, `FCUR = 6`. -/
  | full
deriving DecidableEq, Repr

/-- The case of RXBYTE that a byte is in a context (43_frame_decoder.md R191 to R197). -/
def decodeByte (ctx : RxContext) (b : Byte) : Instr :=
  match ctx, classify b with
  | .anyState, _ => .rxbyte b
  | .outside, .startClass => .rxbyteSOut
  | .outside, _ => .rxbyteEXOut b
  | .full, .startClass => .rxbyteSIn
  | .full, _ => .rxbyteFull b
  | .capturing, .startClass => .rxbyteSIn
  | .capturing, .endClass => .rxbyteEIn
  | .capturing, .otherClass => .rxbyteXIn b

/-! ## The decoder and the encoder over all three kinds of input -/

/-- One input of the block with the kind it comes as (30_encoding.md R90). -/
inductive Code where
  /-- A word written to `CMD`. -/
  | command (w : Word)
  /-- The index of the BusEvent the handler decoded from `STAT`. -/
  | event (ix : Byte)
  /-- A byte delivered to the frame decoder in a context. -/
  | received (ctx : RxContext) (b : Byte)
deriving DecidableEq, Repr

/-- The decoder: total, rejecting by name. -/
def decode : Code → Except DecodeError Instr
  | .command w => decodeCmd w
  | .event ix =>
    match BusEvent.ofIndex ix with
    | some e => .ok (decodeEvent e)
    | none => .error .notAnEvent
  | .received ctx b => .ok (decodeByte ctx b)

/-- The encoder (30_encoding.md R91 to R94 and R97; the opcode table's contexts). -/
def encode : Instr → Code
  | .start d => .command (packCmd 0x1#4 d 0#9 0#2 0#8 0#8)
  | .rstart d => .command (packCmd 0x2#4 d 0#9 0#2 0#8 0#8)
  | .stop d => .command (packCmd 0x3#4 d 0#9 0#2 0#8 0#8)
  | .saddr d dir a => .command (packCmd 0x4#4 d 0#9 (0#1 ++ dir.bit) 0#8 (0#1 ++ a))
  | .sbyte d b => .command (packCmd 0x5#4 d 0#9 0#2 0#8 b)
  | .rbyte d p => .command (packCmd 0x6#4 d 0#9 (0#1 ++ BitVec.ofBool p.bit) 0#8 0#8)
  | .listen d => .command (packCmd 0x7#4 d 0#9 0#2 0#8 0#8)
  | .rddev peer dev => .command (packCmd 0x8#4 false 0#9 0#2 dev.code (0#1 ++ peer))
  | .reservedOp op rest => .command (op ++ rest)
  | .rxbyte b => .received .anyState b
  | .rxbyteSOut => .received .outside startDelim
  | .rxbyteEXOut b => .received .outside b
  | .rxbyteSIn => .received .capturing startDelim
  | .rxbyteFull b => .received .full b
  | .rxbyteEIn => .received .capturing endDelim
  | .rxbyteXIn b => .received .capturing b
  | .evtSlaveAddressedForWrite => .event BusEvent.slaveAddressedForWrite.index
  | .evtSlaveByteReceivedAckSent => .event BusEvent.slaveByteReceivedAckSent.index
  | .evtSlaveAddressedForRead => .event BusEvent.slaveAddressedForRead.index
  | .evtSlaveByteSentAckReceived => .event BusEvent.slaveByteSentAckReceived.index
  | .evtSlaveStopOrRepeatedStartReceived => .event BusEvent.slaveStopOrRepeatedStartReceived.index
  | .evtSlaveByteSentNackReceived => .event BusEvent.slaveByteSentNackReceived.index
  | .evtUnhandled => .event BusEvent.unhandled.index
  | .evtOther e => .event e.index

/-! ## The host's interface to the decoder -/

/-- Which kind of input a word of the opcode table is (log 10): a word of more than 8 bits is a command word; a word of at
most 8 bits is a BusEvent index where it is one, otherwise a byte received by a decoder outside a frame, its state after
reset. The table's rows of format EVT and of format RXBYTE8 are both 8 bits wide and share words, so the bits alone do not
tell them apart. -/
def tableCode (nbits w : Nat) : Code :=
  if 8 < nbits then .command (BitVec.ofNat 32 w)
  else
    match BusEvent.ofIndex (BitVec.ofNat 8 w) with
    | some e => .event e.index
    | none => .received .outside (BitVec.ofNat 8 w)

/-- The instruction the decoder reads from a word of the opcode table, or none where it refuses. -/
def decodeTableWord (nbits w : Nat) : Option Instr := (decode (tableCode nbits w)).toOption

end Sys2Proof
end

