-- ==== Sys2Proof/Machine/State.lean ====
section
/-! DEFINITION. The state of the block (10_state.md) as plain data: the PHY port, the command interface with the master
protocol registers, the slave protocol registers, the frame decoder, and beside them the parameters, the peripheral
inputs and the schedule of the environment. One bus node and one host connection (log 1). Reset values:
70_reset_and_hazards.md R241 to R243. -/

namespace Sys2Proof.Machine

/-- The PHY arm kinds (30_encoding.md R102); `none` is the reserved code 7, the reset value. -/
inductive ArmKind where
  | start
  | rstart
  | stop
  | txAddr
  | txData
  | rxData
  | listen
  | none
deriving DecidableEq, Repr

/-- The 3-bit code of `ARM_KIND` (30_encoding.md R102). -/
def ArmKind.code : ArmKind → BitVec 3
  | .start => 0#3
  | .rstart => 1#3
  | .stop => 2#3
  | .txAddr => 3#3
  | .txData => 4#3
  | .rxData => 5#3
  | .listen => 6#3
  | .none => 7#3

/-- One record of `TRACE`: `(kind, DATA, ack, ien)` (10_state.md R31). -/
structure ArmRecord where
  kind : ArmKind
  data : Byte
  ack : Bool
  ien : Bool
deriving DecidableEq, Repr

/-- The PHY port of the node (10_state.md R24 to R32). -/
structure Port where
  /-- `STAT` (R24). -/
  stat : Byte
  /-- `DATA` (R25). -/
  data : Byte
  /-- `DONE` (R26). -/
  done : Bool
  /-- `IEN` (R27). -/
  ien : Bool
  /-- `IRQ` (R32). -/
  irq : Bool
  /-- `ARM_KIND` (R28). -/
  armKind : ArmKind
  /-- `ARM_ACK` (R28). -/
  armAck : Bool
  /-- `ARM_PEND` (R28). -/
  armPend : Bool
  /-- `TRACE` (R31), oldest record first. -/
  trace : List ArmRecord
deriving DecidableEq, Repr

/-- The positions of the MDP sequencer, `MSTEP` (10_state.md R40). -/
inductive MStep where
  | idle
  | start
  | addrWrite
  | devByte
  | rstart
  | addrRead
  | recv
  | stopOk
  | stopFail
deriving DecidableEq, Repr

/-- The 4-bit value of `MSTEP` (10_state.md R40). -/
def MStep.code : MStep → BitVec 4
  | .idle => 0#4
  | .start => 1#4
  | .addrWrite => 2#4
  | .devByte => 3#4
  | .rstart => 4#4
  | .addrRead => 5#4
  | .recv => 6#4
  | .stopOk => 7#4
  | .stopFail => 8#4

/-- The command interface and the master protocol registers (10_state.md R33 to R40). -/
structure Foreground where
  /-- `CMD` (R33): the word written and not yet accepted. -/
  cmd : Option Word
  /-- `RES` (R34). -/
  res : Byte
  /-- `BUSY` (R35). -/
  busy : Bool
  /-- `RDOK` (R36). -/
  rdok : Bool
  /-- `RDCNT` (R37). -/
  rdcnt : BitVec 3
  /-- `RDBUF[0..3]` (R38). -/
  rdbuf : Vector Byte 4
  /-- `MSTEP` (R40). -/
  mstep : MStep
  /-- `peer` of the RDDEV in progress (41_master_protocol.md R152; log 7). -/
  peer : BitVec 7
  /-- `dev` of the RDDEV in progress (41_master_protocol.md R152; log 7). -/
  dev : DeviceId
  /-- The event `e` that RDDEV reports once its STOP has completed (41_master_protocol.md R152; log 7). -/
  evt : BusEvent
deriving DecidableEq, Repr

/-- The three peripheral read functions (60_exceptions.md R232). -/
inductive PerCall where
  | perMotor
  | perAccel
  | perTemp
deriving DecidableEq, Repr

/-- The slave protocol registers (10_state.md R41 to R44). -/
structure SlaveRegs where
  /-- `SDEV` (R41). -/
  sdev : Byte
  /-- `SOFF` (R42). -/
  soff : BitVec 3
  /-- `SVALID` (R43). -/
  svalid : Bool
  /-- `SNAP[0..3]` (R44). -/
  snap : Vector Byte 4
  /-- The peripheral functions called so far, oldest first: an observation of the model (log 8). -/
  perLog : List PerCall
deriving DecidableEq, Repr

/-- The frame decoder of one host connection (10_state.md R45 to R48). -/
structure HostDecoder where
  /-- `FIN` (R45). -/
  fin : Bool
  /-- `FCUR` (R46). -/
  fcur : BitVec 3
  /-- `FBUF[0..5]` (R47). -/
  fbuf : Vector Byte 6
  /-- `FR_VALID` (R48). -/
  frValid : Bool
  /-- `FR_DEV` (R48). -/
  frDev : Byte
  /-- `FR_VAL` (R48). -/
  frVal : Word
  /-- `FRAMES` (R48), oldest first. -/
  frames : List (Byte × Word)
deriving DecidableEq, Repr

/-- What the three peripheral read functions answer at this moment (60_exceptions.md R232): an input of the block that the
environment changes at will (log 8). -/
structure Peripherals where
  motor : Byte
  accel : Word
  temp : Word
deriving DecidableEq, Repr

/-- One entry of the schedule: which agent moves, with the environment's choices (20_memory.md R71; log 2). -/
inductive Move where
  /-- The node's own next step: the handler if an interrupt is pending, otherwise the foreground (20_memory.md R72). -/
  | node
  /-- The processor writes `CMD` (10_state.md R33). -/
  | writeCmd (w : Word)
  /-- `PhyComplete(st, rx)` (10_state.md R30). -/
  | phy (st : Byte) (rx : Option Byte)
  /-- The byte source delivers a byte to the decoder (60_exceptions.md R233). -/
  | rxByte (b : Byte)
  /-- The peripherals' values change (60_exceptions.md R232). -/
  | peripherals (p : Peripherals)
  /-- Reset of the node; `STAT` is left at any value (70_reset_and_hazards.md R240, R243). -/
  | resetNode (stat : Byte)
  /-- Reset of the decoder; `FBUF` is left at any bytes (70_reset_and_hazards.md R240, R242). -/
  | resetHost (fbuf : Vector Byte 6)
deriving DecidableEq, Repr

/-- The whole state: one bus node, one host connection, their parameters and their environment. -/
structure State where
  /-- The parameters; no step writes them (10_state.md R49; log 4). -/
  cfg : Config
  port : Port
  fg : Foreground
  slave : SlaveRegs
  host : HostDecoder
  /-- The peripheral inputs (log 8). -/
  periph : Peripherals
  /-- The environment's inputs and schedule still to come (log 2). -/
  agenda : List Move
deriving DecidableEq, Repr

/-- The three buffers of the block (20_memory.md R60). -/
inductive Buffer where
  | rdbuf
  | snap
  | fbuf
deriving DecidableEq, Repr

/-- Faults of the model. The block itself has no traps (60_exceptions.md R216). -/
inductive Fault where
  /-- Raised by an access to a buffer at an index the buffer does not have, which "is never generated" (20_memory.md R65):
  by RXBYTE with `FCUR` past the buffer, by a completion of RDDEV with `RDCNT` past it, by the slave's transmit with
  `SOFF` past it. Safe: no state that meets the invariant raises it (log 13). -/
  | bufferIndex (buffer : Buffer) (index : Nat)
deriving DecidableEq, Repr

/-- Refusals of the model. -/
inductive Refusal where
  /-- Raised by an arm of `exec` whose instruction has no meaning yet. Safe: the machine stops. No arm raises it. -/
  | notModelled (mnemonic : String)
deriving DecidableEq, Repr

/-! ## Reset -/

/-- The PHY port after a node reset that leaves `STAT` at the given value (70_reset_and_hazards.md R241, R243). -/
def Port.reset (stat : Byte) : Port where
  stat := stat
  data := 0x00#8
  done := false
  ien := false
  irq := false
  armKind := .none
  armAck := false
  armPend := false
  trace := []

/-- The foreground registers after a node reset (70_reset_and_hazards.md R241); the last three are log 7's. -/
def Foreground.reset : Foreground where
  cmd := none
  res := 0x00#8
  busy := false
  rdok := false
  rdcnt := 0#3
  rdbuf := #v[0x00#8, 0x00#8, 0x00#8, 0x00#8]
  mstep := .idle
  peer := 0#7
  dev := .motor
  evt := .unhandled

/-- The slave registers after a node reset (70_reset_and_hazards.md R241). -/
def SlaveRegs.reset : SlaveRegs where
  sdev := 0x00#8
  soff := 0#3
  svalid := false
  snap := #v[0x00#8, 0x00#8, 0x00#8, 0x00#8]
  perLog := []

/-- The decoder after its reset, which leaves `FBUF` at the given bytes (70_reset_and_hazards.md R242). -/
def HostDecoder.reset (fbuf : Vector Byte 6) : HostDecoder where
  fin := false
  fcur := 0#3
  fbuf := fbuf
  frValid := false
  frDev := 0x00#8
  frVal := 0x00000000#32
  frames := []

/-- The machine right after reset (70_reset_and_hazards.md R241 to R245). `STAT` and `FBUF` are unspecified there and zero
here (logs 5, 6); the table is the default one (log 4); the peripherals answer zero (log 8); nothing is scheduled. -/
def State.reset : State where
  cfg := ⟨defaultStatusTable⟩
  port := Port.reset 0x00#8
  fg := Foreground.reset
  slave := SlaveRegs.reset
  host := HostDecoder.reset #v[0x00#8, 0x00#8, 0x00#8, 0x00#8, 0x00#8, 0x00#8]
  periph := ⟨0x00#8, 0x00000000#32, 0x00000000#32⟩
  agenda := []

end Sys2Proof.Machine
end

