-- ==== Sys2Proof/Machine/Flags.lean ====
section
/-! DEFINITION. The one-bit state elements of the PHY port (10_state.md R23) and the three events that write them: an arm
action, a PHY completion, entry to the handler. There are no arithmetic condition codes (R23). -/

namespace Sys2Proof.Machine

/-- What an arm action does to the arm registers and the flags (10_state.md R29). -/
def Port.armFlags (p : Port) (kind : ArmKind) (ack ien : Bool) : Port :=
  { p with armKind := kind, armAck := ack, ien := ien, done := false, armPend := true }

/-- What a PHY completion does to the flags: `DONE` set, `ARM_PEND` cleared, `IRQ` set if `IEN` is (10_state.md R30). -/
def Port.completionFlags (p : Port) : Port :=
  { p with done := true, armPend := false, irq := p.irq || p.ien }

/-- What entry to the handler does to the flags: `IRQ` and `DONE` cleared (60_exceptions.md R225). -/
def Port.entryFlags (p : Port) : Port := { p with irq := false, done := false }

end Sys2Proof.Machine
end

