-- ==== Sys2Proof/Machine/Operands.lean ====
section
/-! DEFINITION. The operand forms of the block: payload lengths (30_encoding.md R105), the address byte (R103), the byte
order of a payload (20_memory.md R62), one indexed byte of a buffer (R65), and the values the peripherals answer
(60_exceptions.md R232). -/

namespace Sys2Proof.Machine

/-- `PAYLEN(d)` (30_encoding.md R105). Where the spec leaves it undefined there is no DeviceId. -/
def payLen : DeviceId → Nat
  | .motor => 1
  | .accelerometer => 4
  | .temperatureSensor => 4

/-- The address byte: `addr[6:0] : dir` (30_encoding.md R103). -/
def addressByte (addr : BitVec 7) (dir : Direction) : Byte := addr ++ dir.bit

/-- The bytes of a 32-bit pattern in transfer order, least significant first (20_memory.md R62). -/
def wordBytes (v : Word) : Vector Byte 4 :=
  #v[v.extractLsb' 0 8, v.extractLsb' 8 8, v.extractLsb' 16 8, v.extractLsb' 24 8]

/-- The 32-bit pattern of four bytes in transfer order (20_memory.md R62). -/
def bytesWord (b0 b1 b2 b3 : Byte) : Word := b3 ++ b2 ++ b1 ++ b0

/-- `RDVAL` (10_state.md R39), a view of `RDBUF`. -/
def Foreground.rdval (f : Foreground) : Word := bytesWord f.rdbuf[0] f.rdbuf[1] f.rdbuf[2] f.rdbuf[3]

/-- Byte `i` of a buffer; none outside the buffer (20_memory.md R65). -/
def readBuf {n : Nat} (v : Vector Byte n) (i : Nat) : Option Byte := v[i]?

/-- The buffer with byte `i` replaced; none outside the buffer (20_memory.md R65). -/
def writeBuf {n : Nat} (v : Vector Byte n) (i : Nat) (b : Byte) : Option (Vector Byte n) :=
  if h : i < n then some (v.set i b h) else none

/-- The peripheral function that owns a device (42_slave_protocol.md R175). -/
def perCallOf : DeviceId → PerCall
  | .motor => .perMotor
  | .accelerometer => .perAccel
  | .temperatureSensor => .perTemp

/-- `SNAP` after the snapshot for a device: one byte for Motor and `SNAP[1..3]` kept, four for the others
(42_slave_protocol.md R175). -/
def snapshotBytes (p : Peripherals) (old : Vector Byte 4) : DeviceId → Vector Byte 4
  | .motor => old.set 0 p.motor
  | .accelerometer => wordBytes p.accel
  | .temperatureSensor => wordBytes p.temp

end Sys2Proof.Machine
end

