-- ==== Sys2Proof/Machine/Ops.lean ====
section
/-! DEFINITION. The named operations the meanings share: the arm action, the PHY completion, the status decode, the result
register, handler entry and return, and the two resets. -/

namespace Sys2Proof.Machine

/-- The answer of every operation of the block. -/
abbrev Result := Host.Outcome State Fault Refusal

/-- `RES` for `InterruptDeferred` (30_encoding.md R96). -/
def resDeferred : Byte := 0x40#8

/-- `RES` for `InvalidOperation` (30_encoding.md R96). -/
def resInvalid : Byte := 0x80#8

/-! ## The PHY port -/

/-- `DATA <- b` where the operation has a data operand, otherwise `DATA` unchanged (40_bus_engine.md R122). -/
def State.loadData (s : State) (b : Option Byte) : State :=
  match b with
  | some b => { s with port := { s.port with data := b } }
  | none => s

/-- `Arm(kind, ack, ien)` with the record of it in `TRACE` (10_state.md R29, R31). -/
def State.arm (s : State) (kind : ArmKind) (ack ien : Bool) : State :=
  { s with
    port :=
      { s.port.armFlags kind ack ien with
        trace := s.port.trace ++ [⟨kind, s.port.data, ack, ien⟩] } }

/-- `PhyComplete(st, rx)`, the effect; it is enabled only when `DONE = 0` (10_state.md R30). -/
def State.phyComplete (s : State) (st : Byte) (rx : Option Byte) : State :=
  { s with port := { s.port.completionFlags with stat := st, data := rx.getD s.port.data } }

/-- `Decode(STAT[7:3])` (40_bus_engine.md R121). -/
def State.busEvent (s : State) : BusEvent := decodeStatus s.cfg (statusCode s.port.stat)

/-! ## The foreground's registers -/

/-- `RES <- v` (10_state.md R34). -/
def State.setRes (s : State) (v : Byte) : State := { s with fg := { s.fg with res := v } }

/-- `BUSY <- v` (10_state.md R35). -/
def State.setBusy (s : State) (v : Bool) : State := { s with fg := { s.fg with busy := v } }

/-- A primitive command as the foreground accepts it: the `DATA` load and the arm action; in deferred mode also
`RES <- InterruptDeferred`, in blocking mode also `BUSY <- 1` (40_bus_engine.md R122, R124, R125, R137). -/
def State.primitive (s : State) (kind : ArmKind) (ack : Bool) (load : Option Byte) (deferred : Bool) : State :=
  let armed := (s.loadData load).arm kind ack deferred
  if deferred then armed.setRes resDeferred else armed.setBusy true

/-- The completion of a blocking primitive: `RES <- index(e)` and `BUSY <- 0`; `STAT` and `DONE` stay (40_bus_engine.md
R124). -/
def State.finishCommand (s : State) (e : BusEvent) : State := (s.setRes e.index).setBusy false

/-- `InvalidOperation` for a command word that is not legal: `RES <- 0x80` and, for a word of RDDEV, `RDOK <- 0`
(40_bus_engine.md R136, 41_master_protocol.md R151; log 17). -/
def State.rejectCommand (s : State) (w : Word) : State :=
  { s with fg := { s.fg with res := resInvalid, rdok := s.fg.rdok && cmdOp w != 0x8#4 } }

/-! ## The interrupt -/

/-- Taking the interrupt: `IRQ <- 0`, `DONE <- 0`; nothing is saved (60_exceptions.md R225). -/
def State.enterHandler (s : State) : State := { s with port := s.port.entryFlags }

/-- Return from the handler: nothing to restore (60_exceptions.md R226). -/
def State.leaveHandler (s : State) : State := s

/-- An arm action of the handler, always deferred and with no result: the `DATA` load and `Arm(kind, ack, 1)`
(42_slave_protocol.md R171, R182). -/
def State.handlerArm (s : State) (kind : ArmKind) (ack : Bool) (load : Option Byte) : State :=
  (s.loadData load).arm kind ack true

/-! ## Reset from outside -/

/-- Reset of the node, whatever it held; nothing of the decoder changes (70_reset_and_hazards.md R240, R241, R243). -/
def State.resetNode (s : State) (stat : Byte) : State :=
  { s with port := Port.reset stat, fg := Foreground.reset, slave := SlaveRegs.reset }

/-- Reset of the decoder; nothing of the node changes (70_reset_and_hazards.md R240, R242). -/
def State.resetHost (s : State) (fbuf : Vector Byte 6) : State := { s with host := HostDecoder.reset fbuf }

end Sys2Proof.Machine
end

