-- ==== Sys2Proof/Machine/BusEngine.lean ====
section
/-! DEFINITION. The Bus Transaction Engine (40_bus_engine.md): what the foreground does when it accepts each of the seven
primitive commands or a reserved operation code. The completion of a blocking one is `State.finishCommand`; illegal words
never become one of these instructions (R122 step 1). -/

namespace Sys2Proof.Machine

/-- START (40_bus_engine.md R126). -/
def execStart (deferred : Bool) (s : State) : Result := .next (s.primitive .start false none deferred)

/-- RSTART (40_bus_engine.md R127). -/
def execRstart (deferred : Bool) (s : State) : Result := .next (s.primitive .rstart false none deferred)

/-- STOP (40_bus_engine.md R128). -/
def execStop (deferred : Bool) (s : State) : Result := .next (s.primitive .stop false none deferred)

/-- SADDR: the address byte is loaded into `DATA` and transmitted (40_bus_engine.md R129). -/
def execSaddr (deferred : Bool) (dir : Direction) (addr : BitVec 7) (s : State) : Result :=
  .next (s.primitive .txAddr false (some (addressByte addr dir)) deferred)

/-- SBYTE: the data byte is loaded into `DATA` and transmitted (40_bus_engine.md R130). -/
def execSbyte (deferred : Bool) (data : Byte) (s : State) : Result :=
  .next (s.primitive .txData false (some data) deferred)

/-- RBYTE: a receive with the acknowledge policy; `DATA` is not written by the command (40_bus_engine.md R131). -/
def execRbyte (deferred : Bool) (policy : AckPolicy) (s : State) : Result :=
  .next (s.primitive .rxData policy.bit none deferred)

/-- LISTEN: the own address is acknowledged when matched (40_bus_engine.md R132). -/
def execListen (deferred : Bool) (s : State) : Result := .next (s.primitive .listen true none deferred)

/-- A reserved operation code: `InvalidOperation` and nothing else (30_encoding.md R95, 40_bus_engine.md R136). -/
def execReservedOp (_op : BitVec 4) (_rest : BitVec 28) (s : State) : Result := .next (s.setRes resInvalid)

end Sys2Proof.Machine
end

