-- ==== Sys2Proof/Machine/FrameDecoder.lean ====
section
/-! DEFINITION. The Host Frame Decoder (43_frame_decoder.md): RXBYTE and its six cases. Each case has its effect in its own
context; a case row executed in a decoder state outside its context is what its byte is there, the whole RXBYTE of it
(log 11). Every RXBYTE begins with `FR_VALID <- 0` (R190). -/

namespace Sys2Proof.Machine

/-- The decoder with the answer of one RXBYTE put back into the state; no decoder is an index outside `FBUF` (20_memory.md
R65; log 13). -/
def State.withHost (s : State) (h : Option HostDecoder) : Result :=
  match h with
  | some h => .next { s with host := h }
  | none => .fault (.bufferIndex .fbuf s.host.fcur.toNat)

/-- R191: `FIN <- 1; FCUR <- 0`. -/
def HostDecoder.enterFrame (h : HostDecoder) : HostDecoder := { h with frValid := false, fin := true, fcur := 0#3 }

/-- R192: a stray byte, nothing changes but `FR_VALID`. -/
def HostDecoder.ignoreStray (h : HostDecoder) : HostDecoder := { h with frValid := false }

/-- R193: `FCUR <- 0`, `FIN` stays 1. -/
def HostDecoder.restartFrame (h : HostDecoder) : HostDecoder := { h with frValid := false, fcur := 0#3 }

/-- R194: the frame is dropped, `FIN <- 0; FCUR <- 0`. -/
def HostDecoder.dropFrame (h : HostDecoder) : HostDecoder := { h with frValid := false, fin := false, fcur := 0#3 }

/-- R196: `FBUF[FCUR] <- b; FCUR <- FCUR + 1`. -/
def HostDecoder.storeByte (h : HostDecoder) (b : Byte) : Option HostDecoder :=
  match writeBuf h.fbuf h.fcur.toNat b with
  | none => none
  | some buf => some { h with frValid := false, fbuf := buf, fcur := h.fcur + 1#3 }

/-- The value of a valid frame: the Motor byte zero-extended, or the four payload bytes least significant first
(43_frame_decoder.md R199). -/
def frameValue (fbuf : Vector Byte 6) : DeviceId → Word
  | .motor => (fbuf[1]).setWidth 32
  | .accelerometer => bytesWord fbuf[1] fbuf[2] fbuf[3] fbuf[4]
  | .temperatureSensor => bytesWord fbuf[1] fbuf[2] fbuf[3] fbuf[4]

/-- The frame that `k` bytes before the end delimiter make, if they make a valid one: `FBUF[0]` names a device and
`k = 1 + PAYLEN` (43_frame_decoder.md R198, R199). -/
def frameOf (fbuf : Vector Byte 6) (k : Nat) : Option (Byte × Word) :=
  match DeviceId.ofByte fbuf[0] with
  | none => none
  | some dev => if k = 1 + payLen dev then some (fbuf[0], frameValue fbuf dev) else none

/-- `Emit(dev, val)` (43_frame_decoder.md R200). -/
def HostDecoder.emit (h : HostDecoder) (f : Byte × Word) : HostDecoder :=
  { h with frValid := true, frDev := f.1, frVal := f.2, frames := h.frames ++ [f] }

/-- R195: the end delimiter is stored at the cursor, a valid frame is emitted, and the decoder leaves the frame. -/
def HostDecoder.finalize (h : HostDecoder) : Option HostDecoder :=
  match writeBuf h.fbuf h.fcur.toNat endDelim with
  | none => none
  | some buf =>
    let t := { h with frValid := false, fbuf := buf, fin := false, fcur := 0#3 }
    match frameOf buf h.fcur.toNat with
    | none => some t
    | some f => some (t.emit f)

/-- RXBYTE(b), the whole operation, its tests in the order of the pseudocode (43_frame_decoder.md R190, R197). -/
def HostDecoder.rxByte (h : HostDecoder) (b : Byte) : Option HostDecoder :=
  if h.fin = false then
    if b = startDelim then some h.enterFrame else some h.ignoreStray
  else if b = startDelim then some h.restartFrame
  else if h.fcur = 6#3 then some h.dropFrame
  else if b = endDelim then h.finalize
  else h.storeByte b

/-- The context the decoder is in (spec/opcode_table.json, column "context"). -/
def HostDecoder.context (h : HostDecoder) : RxContext :=
  if h.fin = false then .outside else if h.fcur = 6#3 then .full else .capturing

/-- RXBYTE (43_frame_decoder.md R190). -/
def execRxbyte (b : Byte) (s : State) : Result := s.withHost (s.host.rxByte b)

/-- RXBYTE.S.out (43_frame_decoder.md R191). -/
def execRxbyteSOut (s : State) : Result :=
  if s.host.context = .outside then s.withHost (some s.host.enterFrame)
  else s.withHost (s.host.rxByte startDelim)

/-- RXBYTE.EX.out (43_frame_decoder.md R192). -/
def execRxbyteEXOut (b : Byte) (s : State) : Result :=
  if s.host.context = .outside ∧ b ≠ startDelim then s.withHost (some s.host.ignoreStray)
  else s.withHost (s.host.rxByte b)

/-- RXBYTE.S.in, at every cursor value (43_frame_decoder.md R193). -/
def execRxbyteSIn (s : State) : Result :=
  if s.host.context ≠ .outside then s.withHost (some s.host.restartFrame)
  else s.withHost (s.host.rxByte startDelim)

/-- RXBYTE.full (43_frame_decoder.md R194). -/
def execRxbyteFull (b : Byte) (s : State) : Result :=
  if s.host.context = .full ∧ b ≠ startDelim then s.withHost (some s.host.dropFrame)
  else s.withHost (s.host.rxByte b)

/-- RXBYTE.E.in (43_frame_decoder.md R195). -/
def execRxbyteEIn (s : State) : Result :=
  if s.host.context = .capturing then s.withHost s.host.finalize
  else s.withHost (s.host.rxByte endDelim)

/-- RXBYTE.X.in (43_frame_decoder.md R196). -/
def execRxbyteXIn (b : Byte) (s : State) : Result :=
  if s.host.context = .capturing ∧ b ≠ startDelim ∧ b ≠ endDelim then s.withHost (s.host.storeByte b)
  else s.withHost (s.host.rxByte b)

end Sys2Proof.Machine
end

