-- ==== Sys2Proof/Machine/MasterProtocol.lean ====
section
/-! DEFINITION. The Device Data Protocol, master role (41_master_protocol.md): RDDEV as the foreground accepts it, and the
completion of each of its sub-operations, which goes on to the next one's arm in the same step (40_bus_engine.md R137). -/

namespace Sys2Proof.Machine

/-- One sub-operation of RDDEV: `MSTEP <- k`, the `DATA` load and a blocking arm (41_master_protocol.md R152; every arm of
RDDEV has `ien = 0`, R153). -/
def mdpArm (k : MStep) (kind : ArmKind) (ack : Bool) (load : Option Byte) (s : State) : State :=
  let t := (s.loadData load).arm kind ack false
  { t with fg := { t.fg with mstep := k } }

/-- RDDEV, accepted: `BUSY <- 1; RDOK <- 0; RDCNT <- 0; MSTEP <- 1` and the arm of START (41_master_protocol.md R152,
40_bus_engine.md R137). The operands are kept for the steps that use them (log 7). -/
def execRddev (peer : BitVec 7) (dev : DeviceId) (s : State) : Result :=
  .next
    (mdpArm .start .start false none
      { s with fg := { s.fg with busy := true, rdok := false, rdcnt := 0#3, peer := peer, dev := dev } })

/-- RDDEV returns without a STOP: the start failed (41_master_protocol.md R152 `abort_no_stop`, R154). -/
def mdpAbort (e : BusEvent) (s : State) : State :=
  { s with fg := { s.fg with res := e.index, mstep := .idle, busy := false } }

/-- RDDEV arms its STOP, keeping the event it will report (41_master_protocol.md R152, R156, R157). -/
def mdpStop (k : MStep) (e : BusEvent) (s : State) : State :=
  mdpArm k .stop false none { s with fg := { s.fg with evt := e } }

/-- A mismatch after the start: STOP is armed and `RDOK` stays 0 (41_master_protocol.md R152 `fail`, R156). -/
def mdpFail (e : BusEvent) (s : State) : State := mdpStop .stopFail e s

/-- RDDEV returns after its STOP, whatever the STOP's result (41_master_protocol.md R152, R156, R157). -/
def mdpReturn (ok : Bool) (s : State) : State :=
  { s with fg := { s.fg with rdok := s.fg.rdok || ok, res := s.fg.evt.index, mstep := .idle, busy := false } }

/-- The receive of byte `i`: `Nack` for the last byte, `Ack` before it (41_master_protocol.md R152, R155). -/
def mdpArmReceive (i : Nat) (s : State) : State :=
  mdpArm .recv .rxData (i + 1 != payLen s.fg.dev) none s

/-- The event expected of the receive of byte `i` (41_master_protocol.md R152, R153). -/
def mdpWant (dev : DeviceId) (i : Nat) : BusEvent :=
  if i + 1 = payLen dev then .masterByteReceivedNackSent else .masterByteReceivedAckSent

/-- The completion of the receive of byte `RDCNT`: on the expected event the byte is stored and counted, then the next
receive or the STOP is armed; on any other event nothing is stored (41_master_protocol.md R152, R155). -/
def mdpByte (e : BusEvent) (s : State) : Result :=
  let i := s.fg.rdcnt.toNat
  if e = mdpWant s.fg.dev i then
    match writeBuf s.fg.rdbuf i s.port.data with
    | none => .fault (.bufferIndex .rdbuf i)
    | some buf =>
      let t := { s with fg := { s.fg with rdbuf := buf, rdcnt := s.fg.rdcnt + 1#3 } }
      if i + 1 = payLen s.fg.dev then .next (mdpStop .stopOk e t) else .next (mdpArmReceive (i + 1) t)
  else .next (mdpFail e s)

/-- The completion of the sub-operation at `MSTEP` with event `e` (41_master_protocol.md R152 to R157). At `MSTEP = 0` the
command in progress is a primitive (40_bus_engine.md R124). -/
def mdpComplete (e : BusEvent) (s : State) : Result :=
  match s.fg.mstep with
  | .idle => .next (s.finishCommand e)
  | .start =>
    if e = .startSent then
      .next (mdpArm .addrWrite .txAddr false (some (addressByte s.fg.peer .write)) s)
    else .next (mdpAbort e s)
  | .addrWrite =>
    if e = .addressWriteAckReceived then .next (mdpArm .devByte .txData false (some s.fg.dev.code) s)
    else .next (mdpFail e s)
  | .devByte =>
    if e = .masterByteSentAck then .next (mdpArm .rstart .rstart false none s) else .next (mdpFail e s)
  | .rstart =>
    if e = .repeatedStartSent then
      .next (mdpArm .addrRead .txAddr false (some (addressByte s.fg.peer .read)) s)
    else .next (mdpFail e s)
  | .addrRead =>
    if e = .addressReadAckReceived then .next (mdpArmReceive 0 s) else .next (mdpFail e s)
  | .recv => mdpByte e s
  | .stopOk => .next (mdpReturn true s)
  | .stopFail => .next (mdpReturn false s)

end Sys2Proof.Machine
end

