-- ==== Sys2Proof/Machine/SlaveProtocol.lean ====
section
/-! DEFINITION. The Device Data Protocol, slave role (42_slave_protocol.md): one handler invocation per BusEvent. Entry,
transition and return are one step (60_exceptions.md R225); every arm of the handler is deferred (R171). -/

namespace Sys2Proof.Machine

/-- The snapshot: the peripheral function that owns the device is called, once (42_slave_protocol.md R175). -/
def takeSnapshot (dev : DeviceId) (s : State) : State :=
  { s with
    slave :=
      { s.slave with
        snap := snapshotBytes s.periph s.slave.snap dev
        perLog := s.slave.perLog ++ [perCallOf dev] } }

/-- `SlaveAddressedForWrite`: a receive with `Ack` is armed (42_slave_protocol.md R172). -/
def execEvtSlaveAddressedForWrite (s : State) : Result :=
  .next (s.enterHandler.handlerArm .rxData true none).leaveHandler

/-- `SlaveByteReceivedAckSent`: `SDEV <- DATA; SOFF <- 0`, nothing armed (42_slave_protocol.md R173). -/
def execEvtSlaveByteReceivedAckSent (s : State) : Result :=
  let t := s.enterHandler
  .next { t with slave := { t.slave with sdev := t.port.data, soff := 0#3 } }.leaveHandler

/-- `SlaveAddressedForRead`: with a valid device the snapshot is taken and its first byte transmitted
(42_slave_protocol.md R174); with none, nothing (R181). -/
def execEvtSlaveAddressedForRead (s : State) : Result :=
  let t := s.enterHandler
  match DeviceId.ofByte t.slave.sdev with
  | none => .next t.leaveHandler
  | some dev =>
    let u := takeSnapshot dev t
    .next
      ({ u with slave := { u.slave with soff := 1#3, svalid := true } }.handlerArm
        .txData false (some u.slave.snap[0])).leaveHandler

/-- Whether more bytes of the value being streamed remain: a cursor exists, its device is valid and `SOFF < PAYLEN(SDEV)`
(42_slave_protocol.md R176). -/
def SlaveRegs.moreBytes (r : SlaveRegs) : Bool :=
  r.svalid &&
    match DeviceId.ofByte r.sdev with
    | none => false
    | some dev => r.soff.toNat < payLen dev

/-- `SlaveByteSentAckReceived`: if bytes remain the next one is transmitted and the offset advanced, otherwise nothing
(42_slave_protocol.md R176). -/
def execEvtSlaveByteSentAckReceived (s : State) : Result :=
  let t := s.enterHandler
  if t.slave.moreBytes then
    match readBuf t.slave.snap t.slave.soff.toNat with
    | none => .fault (.bufferIndex .snap t.slave.soff.toNat)
    | some b =>
      .next
        ({ t with slave := { t.slave with soff := t.slave.soff + 1#3 } }.handlerArm
          .txData false (some b)).leaveHandler
  else .next t.leaveHandler

/-- `SlaveStopOrRepeatedStartReceived`: the cursor is discarded, `SDEV` kept, the listen armed again
(42_slave_protocol.md R177; 90_conflicts.md C4). -/
def execEvtSlaveStopOrRepeatedStartReceived (s : State) : Result :=
  let t := s.enterHandler
  .next
    ({ t with slave := { t.slave with svalid := false, soff := 0#3 } }.handlerArm .listen true none).leaveHandler

/-- `SlaveByteSentNackReceived`: no action beyond entry; the cursor stays (42_slave_protocol.md R179). -/
def execEvtSlaveByteSentNackReceived (s : State) : Result := .next s.enterHandler.leaveHandler

/-- `Unhandled`: no action beyond entry (42_slave_protocol.md R180). -/
def execEvtUnhandled (s : State) : Result := .next s.enterHandler.leaveHandler

/-- The thirteen other events: no action beyond entry (42_slave_protocol.md R178). -/
def execEvtOther (_event : BusEvent) (s : State) : Result := .next s.enterHandler.leaveHandler

end Sys2Proof.Machine
end

