-- ==== Sys2Proof/Machine/Dispatch.lean ====
section
/-! DEFINITION. The meaning of each instruction, one arm per row of spec/opcode_table.json. -/

namespace Sys2Proof.Machine

def exec (i : Instr) (s : State) : Host.Outcome State Fault Refusal :=
  match i with
  -- command words (40_bus_engine.md, 41_master_protocol.md)
  | .start deferred => Sys2Proof.Machine.execStart deferred s
  | .rstart deferred => Sys2Proof.Machine.execRstart deferred s
  | .stop deferred => Sys2Proof.Machine.execStop deferred s
  | .saddr deferred dir addr => Sys2Proof.Machine.execSaddr deferred dir addr s
  | .sbyte deferred data => Sys2Proof.Machine.execSbyte deferred data s
  | .rbyte deferred policy => Sys2Proof.Machine.execRbyte deferred policy s
  | .listen deferred => Sys2Proof.Machine.execListen deferred s
  | .rddev peer dev => Sys2Proof.Machine.execRddev peer dev s
  | .reservedOp op rest => Sys2Proof.Machine.execReservedOp op rest s
  -- received bytes (43_frame_decoder.md)
  | .rxbyte b => Sys2Proof.Machine.execRxbyte b s
  | .rxbyteSOut => Sys2Proof.Machine.execRxbyteSOut s
  | .rxbyteEXOut b => Sys2Proof.Machine.execRxbyteEXOut b s
  | .rxbyteSIn => Sys2Proof.Machine.execRxbyteSIn s
  | .rxbyteFull b => Sys2Proof.Machine.execRxbyteFull b s
  | .rxbyteEIn => Sys2Proof.Machine.execRxbyteEIn s
  | .rxbyteXIn b => Sys2Proof.Machine.execRxbyteXIn b s
  -- BusEvents (42_slave_protocol.md)
  | .evtSlaveAddressedForWrite => Sys2Proof.Machine.execEvtSlaveAddressedForWrite s
  | .evtSlaveByteReceivedAckSent => Sys2Proof.Machine.execEvtSlaveByteReceivedAckSent s
  | .evtSlaveAddressedForRead => Sys2Proof.Machine.execEvtSlaveAddressedForRead s
  | .evtSlaveByteSentAckReceived => Sys2Proof.Machine.execEvtSlaveByteSentAckReceived s
  | .evtSlaveStopOrRepeatedStartReceived => Sys2Proof.Machine.execEvtSlaveStopOrRepeatedStartReceived s
  | .evtSlaveByteSentNackReceived => Sys2Proof.Machine.execEvtSlaveByteSentNackReceived s
  | .evtUnhandled => Sys2Proof.Machine.execEvtUnhandled s
  | .evtOther event => Sys2Proof.Machine.execEvtOther event s

end Sys2Proof.Machine
end

