-- ==== Sys2Proof/Machine/Agents.lean ====
section
/-! DEFINITION. The agents that take steps (00_scope.md R4): the foreground, the interrupt context, the host decoder, and the
moves of the environment; and where a word is placed so that the next step runs it. -/

namespace Sys2Proof.Machine

/-! ## The node's own agents -/

/-- `FG(n)` accepts the word written to `CMD`: an illegal word is answered by `InvalidOperation`, a legal or reserved one is
executed (40_bus_engine.md R122, R136, R137). -/
def acceptCommand (w : Word) (s : State) : Result :=
  match decodeCmd w with
  | .ok i => exec i s
  | .error _ => .next (s.rejectCommand w)

/-- No command is pending any more (10_state.md R33). -/
def State.takeCommand (s : State) : State := { s with fg := { s.fg with cmd := none } }

/-- `FG(n)`: Complete when `BUSY = 1` and `DONE = 1`; the hold while `DONE = 0`; Accept when a word has been written; otherwise
nothing to do (40_bus_engine.md R123, R137). A hold is a step to the same state (log 12). -/
def foregroundStep (s : State) : Result :=
  if s.fg.busy then
    if s.port.done then mdpComplete s.busEvent s else .next s
  else
    match s.fg.cmd with
    | some w => acceptCommand w s.takeCommand
    | none => .next s

/-- `ISR(n)`: one invocation of the handler, dispatched on the event decoded from `STAT` (42_slave_protocol.md R170,
R171). -/
def handlerStep (s : State) : Result := exec (decodeEvent s.busEvent) s

/-- The node's own next step: a pending interrupt goes before any foreground step (20_memory.md R72, 60_exceptions.md
R223). -/
def nodeStep (s : State) : Result := if s.port.irq then handlerStep s else foregroundStep s

/-- `HFD(h)`: one RXBYTE, as the case of it that the decoder's state selects (43_frame_decoder.md R190, R197). -/
def hostStep (b : Byte) (s : State) : Result := exec (decodeByte s.host.context b) s

/-! ## The environment -/

/-- The processor writes `CMD`: possible while no command is in progress or pending (10_state.md R33; log 3). -/
def State.writeCmd (s : State) (w : Word) : State :=
  if s.fg.busy || s.fg.cmd.isSome then s else { s with fg := { s.fg with cmd := some w } }

/-- `PHY(n)`: a completion, enabled only when `DONE = 0` (10_state.md R30). -/
def State.phyMove (s : State) (st : Byte) (rx : Option Byte) : State :=
  if s.port.done then s else s.phyComplete st rx

/-- One entry of the schedule; a move that is not enabled changes nothing (log 2). -/
def performMove (m : Move) (s : State) : Result :=
  match m with
  | .node => nodeStep s
  | .writeCmd w => .next (s.writeCmd w)
  | .phy st rx => .next (s.phyMove st rx)
  | .rxByte b => hostStep b s
  | .peripherals p => .next { s with periph := p }
  | .resetNode stat => .next (s.resetNode stat)
  | .resetHost fbuf => .next (s.resetHost fbuf)

/-- One step: the schedule's next entry, or with nothing scheduled the node's own next step (log 2). -/
def machineStep (s : State) : Result :=
  match s.agenda with
  | [] => nodeStep s
  | m :: rest => performMove m { s with agenda := rest }

/-! ## Where a word is placed so that the next step runs it (log 10) -/

/-- A command word: written to `CMD` of a node whose foreground may accept it at once. -/
def State.placeCommand (s : State) (w : Word) : State :=
  { s with
    port := { s.port with irq := false }
    fg := { s.fg with cmd := some w, busy := false, mstep := .idle }
    agenda := .node :: s.agenda }

/-- A BusEvent: a completion with a status that decodes to it has raised the interrupt. -/
def State.placeEvent (s : State) (e : BusEvent) : State :=
  { s with
    port :=
      { s.port with
        stat := (statusFor s.cfg e).getD s.port.stat
        irq := true
        done := true
        ien := true }
    agenda := .node :: s.agenda }

/-- A received byte: the byte source is about to deliver it to a decoder outside a frame. -/
def State.placeByte (s : State) (b : Byte) : State :=
  { s with host := { s.host with fin := false, fcur := 0#3 }, agenda := .rxByte b :: s.agenda }

/-- An input of the block placed where the next step takes its input from. -/
def State.placeCode (s : State) (c : Code) : State :=
  match c with
  | .command w => s.placeCommand w
  | .event ix =>
    match BusEvent.ofIndex ix with
    | some e => s.placeEvent e
    | none => s
  | .received _ b => s.placeByte b

end Sys2Proof.Machine
end

