-- ==== Sys2Proof/Machine/Step.lean ====
section
/-! DEFINITION. The step of the machine, and the placing of one word of the opcode table where the next step takes it. -/

namespace Sys2Proof.Machine

/-- One step of the machine (20_memory.md R71, R72). -/
def step (s : State) : Host.Outcome State Fault Refusal := machineStep s

/-- The state with a word of the opcode table placed where the next step takes its input from (log 10). -/
def State.withFetchWord (s : State) (nbits w : Nat) : State := s.placeCode (tableCode nbits w)

end Sys2Proof.Machine
end

