-- ==== Sys2Proof/Safety.lean ====
section
/-! DEFINITION. The terms the statements use: the invariant of the machine (10_state.md R52 and what it needs to be kept by
every step), the legal command words (30_encoding.md R94), the bus sequence of RDDEV (41_master_protocol.md R153), the
frames of the host link (30_encoding.md R113), and schedules that let the environment answer. -/

namespace Sys2Proof.Machine

/-! ## The invariant -/

/-- The values `RES` may hold (30_encoding.md R96). -/
abbrev ResLegal (v : Byte) : Prop :=
  v = 0x00#8 ∨ v = resDeferred ∨ v = resInvalid ∨ (BusEvent.ofIndex v).isSome = true

/-- The event RDDEV expects before the receive loop (41_master_protocol.md R153), with the position it waits at. -/
def expectedBeforeReceive : MStep → Option BusEvent
  | .start => some .startSent
  | .addrWrite => some .addressWriteAckReceived
  | .devByte => some .masterByteSentAck
  | .rstart => some .repeatedStartSent
  | .addrRead => some .addressReadAckReceived
  | _ => none

/-- The node's port (10_state.md R52, R28; 30_encoding.md R102). -/
structure PortInv (p : Port) : Prop where
  /-- A pending interrupt has its completion flag and its enable (10_state.md R52). -/
  irq_done : p.irq = true → p.done = true
  irq_ien : p.irq = true → p.ien = true
  /-- An action is outstanding only while `DONE = 0`. -/
  pend_done : p.armPend = true → p.done = false
  /-- No arm has the reserved kind (30_encoding.md R102). -/
  pend_kind : p.armPend = true → p.armKind ≠ .none
  trace_kind : ∀ r ∈ p.trace, r.kind ≠ .none

/-- The foreground registers. -/
structure ForegroundInv (f : Foreground) : Prop where
  /-- `RDCNT <= 4` (10_state.md R52). -/
  rdcnt_le : f.rdcnt.toNat ≤ 4
  /-- `RES` holds a value of 30_encoding.md R96. -/
  res_legal : ResLegal f.res
  /-- `BUSY = 0` implies `MSTEP = 0` (10_state.md R52). -/
  idle_of_not_busy : f.busy = false → f.mstep = .idle
  /-- No second command while one is in progress (10_state.md R33). -/
  cmd_of_busy : f.busy = true → f.cmd = none
  /-- `RDOK` stays 0 until RDDEV returns (41_master_protocol.md R152). -/
  rdok_of_step : f.mstep ≠ .idle → f.rdok = false
  /-- Nothing is counted before the receive loop (41_master_protocol.md R152). -/
  rdcnt_early : (expectedBeforeReceive f.mstep).isSome = true → f.rdcnt = 0#3
  /-- The receive loop stays inside the payload (20_memory.md R65). -/
  rdcnt_recv : f.mstep = .recv → f.rdcnt.toNat < payLen f.dev
  /-- The STOP after success comes after the whole payload (41_master_protocol.md R157). -/
  stop_count : f.mstep = .stopOk → f.rdcnt.toNat = payLen f.dev
  stop_event : f.mstep = .stopOk → f.evt = .masterByteReceivedNackSent
  /-- `RDOK = 1` comes with a whole payload counted (41_master_protocol.md R158). -/
  rdok_count : f.rdok = true → f.rdcnt = 1#3 ∨ f.rdcnt = 4#3

/-- A blocking wait: its arm cleared `IEN`, and the completion it waits for has come or is outstanding (40_bus_engine.md
R123, R124). -/
structure WaitInv (s : State) : Prop where
  ien_of_busy : s.fg.busy = true → s.port.ien = false
  answer_of_busy : s.fg.busy = true → s.port.done = true ∨ s.port.armPend = true

/-- The decoder (10_state.md R52, 43_frame_decoder.md R204). -/
structure HostInv (h : HostDecoder) : Prop where
  fcur_le : h.fcur.toNat ≤ 6
  fcur_outside : h.fin = false → h.fcur = 0#3
  /-- Inside a frame the bytes captured are no delimiters. -/
  captured : h.fin = true → ∀ i : Fin 6, i.val < h.fcur.toNat → h.fbuf[i] ≠ startDelim ∧ h.fbuf[i] ≠ endDelim

/-- The invariant of the machine. -/
structure MachineInv (s : State) : Prop where
  port : PortInv s.port
  fg : ForegroundInv s.fg
  wait : WaitInv s
  /-- `SOFF <= 4` (10_state.md R52). -/
  soff_le : s.slave.soff.toNat ≤ 4
  host : HostInv s.host

/-! ## Legal command words -/

/-- The table of 30_encoding.md R94, row by row, on the fields of R91. -/
abbrev LegalCommand (w : Word) : Prop :=
  cmdRsv w = 0#9 ∧
  (((cmdOp w = 0x1#4 ∨ cmdOp w = 0x2#4 ∨ cmdOp w = 0x3#4 ∨ cmdOp w = 0x7#4) ∧
      cmdMod w = 0#2 ∧ cmdArg1 w = 0#8 ∧ cmdArg0 w = 0#8) ∨
   (cmdOp w = 0x4#4 ∧ (cmdMod w = 0#2 ∨ cmdMod w = 1#2) ∧ cmdArg1 w = 0#8 ∧ (cmdArg0 w).getLsbD 7 = false) ∨
   (cmdOp w = 0x5#4 ∧ cmdMod w = 0#2 ∧ cmdArg1 w = 0#8) ∨
   (cmdOp w = 0x6#4 ∧ (cmdMod w = 0#2 ∨ cmdMod w = 1#2) ∧ cmdArg1 w = 0#8 ∧ cmdArg0 w = 0#8) ∨
   (cmdOp w = 0x8#4 ∧ cmdDefer w = false ∧ cmdMod w = 0#2 ∧
      (cmdArg1 w = 0x01#8 ∨ cmdArg1 w = 0x02#8 ∨ cmdArg1 w = 0x03#8) ∧ (cmdArg0 w).getLsbD 7 = false))

/-! ## Arm actions, written out -/

/-- The port after `Arm(kind, ack, ien)` with `data` in `DATA`, register by register (10_state.md R29). -/
def armedPort (p : Port) (kind : ArmKind) (data : Byte) (ack ien : Bool) : Port where
  stat := p.stat
  data := data
  done := false
  ien := ien
  irq := p.irq
  armKind := kind
  armAck := ack
  armPend := true
  trace := p.trace ++ [⟨kind, data, ack, ien⟩]

/-- What a primitive command arms: the kind, the acknowledge, the byte it loads into `DATA` if it has a data operand, and its
`DEFER` bit (40_bus_engine.md R126 to R132; 10_state.md R28). -/
def primitiveArm : Instr → Option (ArmKind × Bool × Option Byte × Bool)
  | .start d => some (.start, false, none, d)
  | .rstart d => some (.rstart, false, none, d)
  | .stop d => some (.stop, false, none, d)
  | .saddr d .write a => some (.txAddr, false, some (a ++ 0#1), d)
  | .saddr d .read a => some (.txAddr, false, some (a ++ 1#1), d)
  | .sbyte d b => some (.txData, false, some b, d)
  | .rbyte d .nack => some (.rxData, false, none, d)
  | .rbyte d .ack => some (.rxData, true, none, d)
  | .listen d => some (.listen, true, none, d)
  | _ => none

/-! ## The bus sequence of RDDEV -/

/-- One row of the table of 41_master_protocol.md R153: the arm kind, the acknowledge and, where the row loads it, `DATA`. -/
structure ArmRow where
  kind : ArmKind
  ack : Bool
  data : Option Byte
deriving DecidableEq, Repr

/-- The rows of 41_master_protocol.md R153 up to the last receive, for one peer and one device. -/
def rddevRows (peer : BitVec 7) (dev : DeviceId) : List ArmRow :=
  [⟨.start, false, none⟩, ⟨.txAddr, false, some (peer ++ 0#1)⟩, ⟨.txData, false, some dev.code⟩,
   ⟨.rstart, false, none⟩, ⟨.txAddr, false, some (peer ++ 1#1)⟩] ++
  List.replicate (payLen dev - 1) ⟨.rxData, true, none⟩ ++ [⟨.rxData, false, none⟩]

/-- A record of `TRACE` is the row's arm, in blocking mode (41_master_protocol.md R153). -/
def ArmRow.matches (row : ArmRow) (r : ArmRecord) : Prop :=
  r.kind = row.kind ∧ r.ack = row.ack ∧ r.ien = false ∧ ∀ b, row.data = some b → r.data = b

/-- A record of `TRACE` is RDDEV's STOP (41_master_protocol.md R153, last row). -/
def isRddevStop (r : ArmRecord) : Prop := r.kind = .stop ∧ r.ack = false ∧ r.ien = false

/-! ## Schedules -/

/-- One answer of PHY: the status and, if a byte was received, the byte (10_state.md R30). -/
structure Completion where
  st : Byte
  rx : Option Byte
deriving DecidableEq, Repr

/-- The schedule in which PHY answers with each completion in turn and the node steps after each. -/
def answerScript (cs : List Completion) : List Move := cs.flatMap (fun c => [Move.phy c.st c.rx, Move.node])

/-- The event a completion decodes to. -/
def Completion.event (c : Completion) (cfg : Config) : BusEvent := decodeStatus cfg (statusCode c.st)

/-- The node's foreground is free to accept a command: no interrupt pending, no command in progress or written
(40_bus_engine.md R135). -/
abbrev ForegroundFree (s : State) : Prop := s.port.irq = false ∧ s.fg.busy = false ∧ s.fg.cmd = none

/-- The foreground is at the completion of a sub-operation or a primitive: `BUSY = 1`, `DONE = 1`, `IRQ = 0`
(40_bus_engine.md R137). -/
abbrev AtCompletion (s : State) : Prop := s.port.irq = false ∧ s.fg.busy = true ∧ s.port.done = true

/-! ## Frames of the host link -/

/-- The payload bytes of a value: one byte for Motor, four for the others, least significant first (30_encoding.md R110,
R113). -/
def payloadBytes (dev : DeviceId) (val : Word) : List Byte :=
  match dev with
  | .motor => [val.extractLsb' 0 8]
  | .accelerometer => [val.extractLsb' 0 8, val.extractLsb' 8 8, val.extractLsb' 16 8, val.extractLsb' 24 8]
  | .temperatureSensor => [val.extractLsb' 0 8, val.extractLsb' 8 8, val.extractLsb' 16 8, val.extractLsb' 24 8]

/-- `FrameEncode(dev, val)` (30_encoding.md R113). -/
def frameEncode (dev : DeviceId) (val : Word) : List Byte :=
  [0x7C#8, dev.code] ++ payloadBytes dev val ++ [0x0D#8]

/-- The 32-bit value a payload of the device stands for: the Motor byte zero-extended, the pattern otherwise
(30_encoding.md R114). -/
def payloadValue (dev : DeviceId) (val : Word) : Word :=
  match dev with
  | .motor => (val.extractLsb' 0 8).setWidth 32
  | .accelerometer => val
  | .temperatureSensor => val

/-- No byte is a frame delimiter. -/
abbrev NoDelimiter (bs : List Byte) : Prop := ∀ b ∈ bs, b ≠ 0x7C#8 ∧ b ≠ 0x0D#8

/-- The schedule in which the byte source delivers the bytes in turn (60_exceptions.md R233). -/
def byteScript (bs : List Byte) : List Move := bs.map Move.rxByte

/-- `n` steps of the machine. -/
abbrev runSteps (n : Nat) (s : State) : Result := Sys2Proof.core.run n s

end Sys2Proof.Machine
end

