-- ==== Sys2Proof/Certificates/Slice0/Obligations.lean ====
section
/-! DEFINITION. The statements for the provers, each about the machine and none about a program. A docstring names the rule
of spec/ the statement formalises. -/

open Sys2Proof Sys2Proof.Machine

/-! ## Encodings -/

/-- Decoding an encoded well-formed instruction gives it back, for every operand (30_encoding.md R91 to R94, R97, R117). -/
def Obligations.DecodeOfEncode : Prop :=
  ∀ i : Instr, i.wellFormed = true → decode (encode i) = .ok i

/-- A command word that decodes has one meaning: the instruction is well formed and encodes to the same word, so no bit of
the word is dropped (30_encoding.md R91). -/
def Obligations.EncodeOfDecodedCommand : Prop :=
  ∀ (w : Word) (i : Instr), decodeCmd w = .ok i → i.wellFormed = true ∧ encode i = .command w

/-- 30_encoding.md R94: the words that decode to one of the eight commands are exactly the legal ones of its table. -/
def Obligations.LegalWordsDecode : Prop :=
  ∀ w : Word, (∃ i, decodeCmd w = .ok i ∧ ∀ op rest, i ≠ .reservedOp op rest) ↔ LegalCommand w

/-- Words written out from 30_encoding.md R91, R97 and R117 decode to what they stand for. -/
def Obligations.WrittenOutWordsDecode : Prop :=
  decode (.command 0b00011000000000000000000000000000#32) = .ok (.start true) ∧
  decode (.command 0b00100000000000000000000000000000#32) = .ok (.rstart false) ∧
  decode (.command 0b00110000000000000000000000000000#32) = .ok (.stop false) ∧
  decode (.command 0b01000000000000010000000000100000#32) = .ok (.saddr false .read 0x20#7) ∧
  decode (.command 0b01011000000000000000000010101010#32) = .ok (.sbyte true 0xAA#8) ∧
  decode (.command 0b01100000000000010000000000000000#32) = .ok (.rbyte false .ack) ∧
  decode (.command 0b01111000000000000000000000000000#32) = .ok (.listen true) ∧
  decode (.command 0b10000000000000000000001000100000#32) = .ok (.rddev 0x20#7 .accelerometer) ∧
  decode (.event 0b00001101#8) = .ok .evtSlaveAddressedForRead ∧
  decode (.received .capturing 0b00001101#8) = .ok .rxbyteEIn

/-- 30_encoding.md R97: the indices are 1 to 20 in the document's order, and an index names its event. -/
def Obligations.EventIndices : Prop :=
  ([.startSent, .repeatedStartSent, .addressWriteAckReceived, .addressWriteNackReceived, .addressReadAckReceived,
    .addressReadNackReceived, .masterByteSentAck, .masterByteSentNack, .masterByteReceivedAckSent,
    .masterByteReceivedNackSent, .arbitrationLost, .slaveAddressedForWrite, .slaveAddressedForRead,
    .generalCallAddressed, .slaveByteReceivedAckSent, .slaveByteReceivedNackSent, .slaveByteSentAckReceived,
    .slaveByteSentNackReceived, .slaveStopOrRepeatedStartReceived, .unhandled] : List BusEvent).map
      (fun e => e.index.toNat) = List.range' 1 20 ∧
  (∀ e : BusEvent, BusEvent.ofIndex e.index = some e) ∧
  ∀ ix : Byte, ix.toNat = 0 ∨ 20 < ix.toNat → BusEvent.ofIndex ix = none

/-- 40_bus_engine.md R121: a listed code decodes to what the table lists, every unlisted code to `Unhandled`, and the decode
reads `STAT[7:3]` alone. -/
def Obligations.StatusDecodeByTable : Prop :=
  ∀ c : Config, c.wf →
    (∀ r ∈ c.statusTable, decodeStatus c r.code = r.event) ∧
    (∀ code : BitVec 5, (∀ r ∈ c.statusTable, r.code ≠ code) → decodeStatus c code = .unhandled) ∧
    (∀ code : BitVec 5, decodeStatus c code = .unhandled → ∀ r ∈ c.statusTable, r.code ≠ code) ∧
    ∀ (s : State) (code : BitVec 5) (low : BitVec 3),
      s.cfg = c → s.port.stat = code ++ low → s.busEvent = decodeStatus c code

/-! ## Steps run what was decoded -/

/-- The foreground accepts a word when no interrupt is pending and no command in progress, whatever `ARM_PEND`, `DONE` and
`IEN` are, and the step is the execution of the decoded instruction (40_bus_engine.md R135, R137). -/
def Obligations.StepRunsAcceptedCommand : Prop :=
  ∀ (s : State) (w : Word) (i : Instr) (rest : List Move),
    s.port.irq = false → s.fg.busy = false → s.fg.cmd = some w → decodeCmd w = .ok i →
    (s.agenda = [] → step s = exec i { s with fg := { s.fg with cmd := none } }) ∧
    (s.agenda = .node :: rest →
      step s = exec i { s with fg := { s.fg with cmd := none }, agenda := rest })

/-- With an interrupt pending the node's step is the transition of the event decoded from `STAT` (42_slave_protocol.md
R171, 60_exceptions.md R225). -/
def Obligations.StepRunsDecodedEvent : Prop :=
  ∀ (s : State) (e : BusEvent) (rest : List Move),
    s.port.irq = true → decodeStatus s.cfg (statusCode s.port.stat) = e →
    ∃ i, decode (.event e.index) = .ok i ∧
      (s.agenda = [] → step s = exec i s) ∧
      (s.agenda = .node :: rest → step s = exec i { s with agenda := rest })

/-- A delivered byte is one RXBYTE: the case that `FIN`, the byte class and `FCUR` select (43_frame_decoder.md R190, R197). -/
def Obligations.StepRunsDeliveredByte : Prop :=
  ∀ (s : State) (b : Byte) (rest : List Move),
    s.agenda = .rxByte b :: rest →
    (s.host.fin = false → decode (.received .outside b) = .ok (decodeByte .outside b) ∧
      step s = exec (decodeByte .outside b) { s with agenda := rest }) ∧
    (s.host.fin = true → s.host.fcur = 6#3 → decode (.received .full b) = .ok (decodeByte .full b) ∧
      step s = exec (decodeByte .full b) { s with agenda := rest }) ∧
    (s.host.fin = true → s.host.fcur ≠ 6#3 → decode (.received .capturing b) = .ok (decodeByte .capturing b) ∧
      step s = exec (decodeByte .capturing b) { s with agenda := rest })

/-! ## The Bus Transaction Engine -/

/-- 10_state.md R29: what each of the seven primitives does when accepted, in both modes, and all it leaves unchanged. In
deferred mode `RES` is `InterruptDeferred`; in blocking mode `BUSY` is set. -/
def Obligations.PrimitivesArm : Prop :=
  ∀ (i : Instr) (k : ArmKind) (a : Bool) (load : Option Byte) (d : Bool) (s : State),
    primitiveArm i = some (k, a, load, d) →
    exec i s =
      .next { s with
        port := armedPort s.port k (load.getD s.port.data) a d
        fg := { s.fg with res := if d then 0x40#8 else s.fg.res, busy := if d then s.fg.busy else true } }

/-- 30_encoding.md R95, 40_bus_engine.md R136: a reserved operation code writes `RES` and nothing else. -/
def Obligations.ReservedOpIsInvalid : Prop :=
  ∀ (op : BitVec 4) (rest : BitVec 28) (s : State),
    exec (.reservedOp op rest) s = .next { s with fg := { s.fg with res := 0x80#8 } }

/-- 40_bus_engine.md R136 and 41_master_protocol.md R151: a word that is not legal returns `InvalidOperation` in one step and
changes nothing else, but that every illegal word of RDDEV also clears `RDOK`: there R151 is followed and not the wording of
30_encoding.md R95 (log 17). -/
def Obligations.IllegalWordIsInvalid : Prop :=
  ∀ (s : State) (w : Word),
    s.port.irq = false → s.fg.busy = false → s.fg.cmd = some w → ¬ LegalCommand w →
    nodeStep s =
      .next { s with
        fg := { s.fg with
          cmd := none
          res := 0x80#8
          rdok := if cmdOp w = 0x8#4 then false else s.fg.rdok } }

/-- 40_bus_engine.md R124: the completion of a blocking primitive writes the decoded event to `RES`, clears `BUSY` and leaves
everything else, `STAT` and `DONE` among it. -/
def Obligations.PrimitiveCompletes : Prop :=
  ∀ s : State, AtCompletion s → s.fg.mstep = .idle →
    nodeStep s =
      .next { s with fg := { s.fg with res := (decodeStatus s.cfg (statusCode s.port.stat)).index, busy := false } }

/-- 40_bus_engine.md R123: a blocking wait holds: whatever the step, the foreground's registers do not change, no interrupt
is raised, and only a PHY completion (or a reset of the node) ends it. Two clauses are the model's and not R123's: that a word
written to `CMD` meanwhile changes nothing (log 3), and that the hold is a step to the same state (log 12). -/
def Obligations.BlockingWaitHolds : Prop :=
  ∀ s t : State, MachineInv s → s.fg.busy = true → s.port.done = false →
    (∀ st, s.agenda.head? ≠ some (.resetNode st)) → step s = .next t →
    t.fg = s.fg ∧ t.port.irq = false ∧
    (t.port.done = true ↔ ∃ st rx, s.agenda.head? = some (.phy st rx))

/-- 40_bus_engine.md R120: a blocking primitive written to a free node, answered by PHY, arms once and returns the decoded
event, without an interrupt; a deferred one returns `InterruptDeferred` at once, arms the same but for `ien`, and its
completion raises the interrupt and leaves `RES`. -/
def Obligations.PrimitiveContract : Prop :=
  ∀ (s : State) (w : Word) (i : Instr) (k : ArmKind) (a : Bool) (load : Option Byte) (d : Bool) (st : Byte)
    (rx : Option Byte),
    MachineInv s → ForegroundFree s → decodeCmd w = .ok i → primitiveArm i = some (k, a, load, d) →
    s.agenda = [.writeCmd w, .node, .phy st rx] ++ (if d then [] else [.node]) →
    ∃ t, runSteps (if d then 3 else 4) s = .next t ∧
      t.port.trace = s.port.trace ++ [⟨k, load.getD s.port.data, a, d⟩] ∧
      t.port.irq = d ∧ t.fg.busy = false ∧
      t.fg.res = (if d then 0x40#8 else (decodeStatus s.cfg (statusCode st)).index) ∧
      t.port.data = rx.getD (load.getD s.port.data) ∧ t.slave = s.slave ∧ t.host = s.host

/-! ## The PHY port -/

/-- 10_state.md R30: a completion, enabled only when `DONE = 0`; whether or not an arm is pending. The clause for `DONE = 1` is
the model's choice (log 2): a completion that is not enabled is taken from the schedule and changes nothing. -/
def Obligations.PhyCompletionEffect : Prop :=
  ∀ (s : State) (st : Byte) (rx : Option Byte) (rest : List Move), s.agenda = .phy st rx :: rest →
    (s.port.done = false →
      step s =
        .next { s with
          port := { s.port with
            stat := st
            data := match rx with
              | some b => b
              | none => s.port.data
            done := true
            armPend := false
            irq := if s.port.ien then true else s.port.irq }
          agenda := rest }) ∧
    (s.port.done = true → step s = .next { s with agenda := rest })

/-- 60_exceptions.md R218: an interrupt is raised by a PHY completion with `IEN = 1` and by nothing else, and its one
destination is the slave handler. -/
def Obligations.OnlyCompletionRaisesInterrupt : Prop :=
  (∀ s t : State, step s = .next t → s.port.irq = false →
    (t.port.irq = true ↔ s.port.ien = true ∧ s.port.done = false ∧ ∃ st rx, s.agenda.head? = some (.phy st rx))) ∧
  ∀ s : State, s.port.irq = true → nodeStep s = exec (decodeEvent s.busEvent) s

/-- 20_memory.md R72: while the interrupt is pending the foreground has no step, PHY is not enabled, and the node's next step
is the handler, which clears the request and changes no foreground register. "Not enabled" is rendered by the model's choice
(log 2): such a completion changes nothing. -/
def Obligations.InterruptBeforeForeground : Prop :=
  ∀ s : State, MachineInv s → s.port.irq = true →
    (∀ st rx, s.phyMove st rx = s) ∧
    ∃ t, nodeStep s = .next t ∧ exec (decodeEvent s.busEvent) s = .next t ∧
      t.fg = s.fg ∧ t.port.irq = false ∧ t.port.done = false

/-! ## RDDEV -/

/-- A legal RDDEV, accepted: the first step of 41_master_protocol.md R152, and all it leaves unchanged. The operands are kept
for the later steps (log 7). -/
def Obligations.RddevAccepted : Prop :=
  ∀ (peer : BitVec 7) (dev : DeviceId) (s : State),
    exec (.rddev peer dev) s =
      .next { s with
        port := armedPort s.port .start s.port.data false false
        fg := { s.fg with
          busy := true, rdok := false, rdcnt := 0#3, mstep := .start, peer := peer, dev := dev } }

/-- 41_master_protocol.md R153, steps 1 to 5: on the expected event RDDEV arms the next sub-operation in the same step. -/
def Obligations.RddevAdvances : Prop :=
  ∀ s : State, AtCompletion s → expectedBeforeReceive s.fg.mstep = some s.busEvent →
    nodeStep s =
      .next
        (match s.fg.mstep with
         | .start =>
           { s with
             port := armedPort s.port .txAddr (s.fg.peer ++ 0#1) false false
             fg := { s.fg with mstep := .addrWrite } }
         | .addrWrite =>
           { s with
             port := armedPort s.port .txData s.fg.dev.code false false
             fg := { s.fg with mstep := .devByte } }
         | .devByte =>
           { s with port := armedPort s.port .rstart s.port.data false false, fg := { s.fg with mstep := .rstart } }
         | .rstart =>
           { s with
             port := armedPort s.port .txAddr (s.fg.peer ++ 1#1) false false
             fg := { s.fg with mstep := .addrRead } }
         | _ =>
           { s with
             port := armedPort s.port .rxData s.port.data (s.fg.dev ≠ .motor) false
             fg := { s.fg with mstep := .recv } })

/-- 41_master_protocol.md R154: if the start fails RDDEV returns with no further bus action: `TRACE` grew by the START record
alone, `RDOK = 0`, `RDCNT = 0` and `RES` is the event that was returned. The registers `peer` and `dev` of the end state are
the model's own (log 7). -/
def Obligations.RddevStartFails : Prop :=
  ∀ (s s1 : State) (peer : BitVec 7) (dev : DeviceId) (st : Byte) (rx : Option Byte),
    ForegroundFree s → s.agenda = [.phy st rx, .node] → exec (.rddev peer dev) s = .next s1 →
    decodeStatus s.cfg (statusCode st) ≠ .startSent →
    runSteps 2 s1 =
      .next { s with
        port := {
          stat := st, data := rx.getD s.port.data, done := true, ien := false, irq := false, armKind := .start
          armAck := false, armPend := false, trace := s.port.trace ++ [⟨.start, s.port.data, false, false⟩] }
        fg := { s.fg with
          busy := false, mstep := .idle, rdok := false, rdcnt := 0#3
          res := (decodeStatus s.cfg (statusCode st)).index, peer := peer, dev := dev }
        agenda := [] }

/-- 41_master_protocol.md R156: a mismatch at any of steps 2 to 6 arms STOP and waits for it; when the STOP completes, whatever
its event, RDDEV returns the index of the mismatching event with `RDOK = 0`. The register `evt` that keeps that event is the
model's own (log 7). -/
def Obligations.RddevMismatchStops : Prop :=
  (∀ (s : State) (want : BusEvent), MachineInv s → AtCompletion s → s.fg.mstep ≠ .start →
    expectedBeforeReceive s.fg.mstep = some want → s.busEvent ≠ want →
    nodeStep s =
      .next { s with
        port := armedPort s.port .stop s.port.data false false
        fg := { s.fg with mstep := .stopFail, evt := s.busEvent } } ∧
    s.fg.rdok = false ∧ s.fg.rdcnt = 0#3) ∧
  (∀ s : State, MachineInv s → AtCompletion s → s.fg.mstep = .recv →
    s.busEvent ≠
      (if s.fg.rdcnt.toNat + 1 = payLen s.fg.dev then BusEvent.masterByteReceivedNackSent
       else .masterByteReceivedAckSent) →
    nodeStep s =
      .next { s with
        port := armedPort s.port .stop s.port.data false false
        fg := { s.fg with mstep := .stopFail, evt := s.busEvent } } ∧
    s.fg.rdok = false) ∧
  ∀ s : State, MachineInv s → AtCompletion s → s.fg.mstep = .stopFail →
    nodeStep s = .next { s with fg := { s.fg with res := s.fg.evt.index, mstep := .idle, busy := false } } ∧
    s.fg.rdok = false

/-- 41_master_protocol.md R155: the byte of a receive is stored and counted only when its event matches, `Ack` for all but the
last byte and `Nack` for the last; then the next receive or the STOP is armed. A mismatch stores nothing and arms the STOP. The
register `evt` that keeps the event for the return is the model's own (log 7). -/
def Obligations.RddevReceivesBytes : Prop :=
  (∀ s : State, AtCompletion s → s.fg.mstep = .addrRead → s.busEvent = .addressReadAckReceived →
    nodeStep s =
      .next { s with
        port := armedPort s.port .rxData s.port.data (1 ≠ payLen s.fg.dev) false
        fg := { s.fg with mstep := .recv } }) ∧
  ∀ (s : State) (i : Nat), MachineInv s → AtCompletion s → s.fg.mstep = .recv → s.fg.rdcnt.toNat = i →
    (i + 1 < payLen s.fg.dev → s.busEvent = .masterByteReceivedAckSent →
      ∃ buf : Vector Byte 4,
        (∀ j : Fin 4, buf[j] = if j.val = i then s.port.data else s.fg.rdbuf[j]) ∧
        nodeStep s =
          .next { s with
            port := armedPort s.port .rxData s.port.data (i + 2 ≠ payLen s.fg.dev) false
            fg := { s.fg with rdbuf := buf, rdcnt := BitVec.ofNat 3 (i + 1) } }) ∧
    (i + 1 = payLen s.fg.dev → s.busEvent = .masterByteReceivedNackSent →
      ∃ buf : Vector Byte 4,
        (∀ j : Fin 4, buf[j] = if j.val = i then s.port.data else s.fg.rdbuf[j]) ∧
        nodeStep s =
          .next { s with
            port := armedPort s.port .stop s.port.data false false
            fg := { s.fg with
              rdbuf := buf, rdcnt := BitVec.ofNat 3 (i + 1), mstep := .stopOk, evt := .masterByteReceivedNackSent } }) ∧
    (s.busEvent ≠
        (if i + 1 = payLen s.fg.dev then BusEvent.masterByteReceivedNackSent else .masterByteReceivedAckSent) →
      nodeStep s =
        .next { s with
          port := armedPort s.port .stop s.port.data false false
          fg := { s.fg with mstep := .stopFail, evt := s.busEvent } })

/-- 41_master_protocol.md R157: when the STOP after the last confirmed byte completes, whatever its event, RDDEV returns with
`RDOK = 1`, `RES = 0x0A` and `RDCNT = PAYLEN(dev)`. -/
def Obligations.RddevReturnsSuccess : Prop :=
  ∀ s : State, MachineInv s → AtCompletion s → s.fg.mstep = .stopOk →
    nodeStep s = .next { s with fg := { s.fg with rdok := true, res := 0x0A#8, mstep := .idle, busy := false } } ∧
    s.fg.rdcnt.toNat = payLen s.fg.dev

/-- A read of Motor whose sub-operations are answered as expected ends after seven completions with the byte in `RDBUF[0]`;
`TRACE` grew by the rows of 41_master_protocol.md R153, the address bytes of the peer and the device byte among them, and the
STOP (41_master_protocol.md R157, R158, R162; 30_encoding.md R107). -/
def Obligations.RddevReadsMotor : Prop :=
  ∀ (s s1 : State) (peer : BitVec 7) (cs : List Completion) (b : Byte) (last : BusEvent),
    ForegroundFree s → s.agenda = answerScript cs → exec (.rddev peer .motor) s = .next s1 →
    cs.map (fun c => c.event s.cfg) =
      [.startSent, .addressWriteAckReceived, .masterByteSentAck, .repeatedStartSent, .addressReadAckReceived,
       .masterByteReceivedNackSent, last] →
    (cs[5]?).bind (fun c => c.rx) = some b →
    ∃ (t : State) (recs : List ArmRecord) (stop : ArmRecord), runSteps 14 s1 = .next t ∧
      t.fg.busy = false ∧ t.fg.mstep = .idle ∧ t.fg.rdok = true ∧ t.fg.rdcnt = 1#3 ∧ t.fg.res = 0x0A#8 ∧
      t.fg.rdbuf[0] = b ∧ t.fg.rdbuf[1] = s.fg.rdbuf[1] ∧ t.fg.rdbuf[2] = s.fg.rdbuf[2] ∧
      t.fg.rdbuf[3] = s.fg.rdbuf[3] ∧
      t.port.trace = s.port.trace ++ recs ++ [stop] ∧
      List.Forall₂ ArmRow.matches (rddevRows peer .motor) recs ∧ isRddevStop stop ∧
      t.slave = s.slave ∧ t.host = s.host

/-- A read of a float whose sub-operations are answered as expected ends after ten completions with the four bytes, least
significant first, in `RDVAL`; `TRACE` grew by the rows of 41_master_protocol.md R153 (the address bytes of the peer, the device
byte, `Ack` on the first three receives and `Nack` on the last) and the STOP (41_master_protocol.md R155, R157, R158;
30_encoding.md R108). -/
def Obligations.RddevReadsFloat : Prop :=
  ∀ (s s1 : State) (peer : BitVec 7) (dev : DeviceId) (cs : List Completion) (v : Word) (last : BusEvent),
    dev ≠ .motor → ForegroundFree s → s.agenda = answerScript cs → exec (.rddev peer dev) s = .next s1 →
    cs.map (fun c => c.event s.cfg) =
      [.startSent, .addressWriteAckReceived, .masterByteSentAck, .repeatedStartSent, .addressReadAckReceived,
       .masterByteReceivedAckSent, .masterByteReceivedAckSent, .masterByteReceivedAckSent,
       .masterByteReceivedNackSent, last] →
    ((cs.drop 5).take 4).map (fun c => c.rx) =
      [some (v.extractLsb' 0 8), some (v.extractLsb' 8 8), some (v.extractLsb' 16 8), some (v.extractLsb' 24 8)] →
    ∃ (t : State) (recs : List ArmRecord) (stop : ArmRecord), runSteps 20 s1 = .next t ∧
      t.fg.busy = false ∧ t.fg.mstep = .idle ∧ t.fg.rdok = true ∧ t.fg.rdcnt = 4#3 ∧ t.fg.res = 0x0A#8 ∧
      t.fg.rdval = v ∧
      t.port.trace = s.port.trace ++ recs ++ [stop] ∧
      List.Forall₂ ArmRow.matches (rddevRows peer dev) recs ∧ isRddevStop stop ∧
      t.slave = s.slave ∧ t.host = s.host

/-- The trace of every RDDEV that returns, whatever PHY answers: a nonempty initial part of the sequence of
41_master_protocol.md R153, then one STOP, unless it is START alone and the start failed; and `RDOK = 1` exactly when it is the
whole sequence and the last receive's event was the expected one, which `RES = 0x0A` tells. R161 has "exactly when" without that
condition; R152 and vector V-M7 need it (log 16). -/
def Obligations.RddevTrace : Prop :=
  ∀ (s s1 t : State) (peer : BitVec 7) (dev : DeviceId) (cs : List Completion),
    MachineInv s → ForegroundFree s → s.agenda = answerScript cs → exec (.rddev peer dev) s = .next s1 →
    runSteps (2 * cs.length) s1 = .next t → t.fg.busy = false →
    ∃ (k : Nat) (recs tail : List ArmRecord),
      t.port.trace = s.port.trace ++ recs ++ tail ∧
      1 ≤ k ∧ k ≤ (rddevRows peer dev).length ∧
      List.Forall₂ ArmRow.matches ((rddevRows peer dev).take k) recs ∧
      ((tail = [] ∧ k = 1 ∧ t.fg.rdok = false) ∨ (2 ≤ k ∧ ∃ r, tail = [r] ∧ isRddevStop r)) ∧
      (t.fg.rdok = true ↔ k = (rddevRows peer dev).length ∧ t.fg.res = 0x0A#8)

/-- The result registers of every RDDEV that returns, whatever PHY answers (41_master_protocol.md R158, R155): bytes of
`RDBUF` from `RDCNT` on are the old ones; `RDOK = 1` comes with the whole payload and `RES = 0x0A`, `RDOK = 0` with less than
the whole payload; nothing of the slave or of the decoder changes. -/
def Obligations.RddevResultRegisters : Prop :=
  ∀ (s s1 t : State) (peer : BitVec 7) (dev : DeviceId) (cs : List Completion),
    MachineInv s → ForegroundFree s → s.agenda = answerScript cs → exec (.rddev peer dev) s = .next s1 →
    runSteps (2 * cs.length) s1 = .next t → t.fg.busy = false →
    t.fg.mstep = .idle ∧
    (∀ j : Fin 4, t.fg.rdcnt.toNat ≤ j.val → t.fg.rdbuf[j] = s.fg.rdbuf[j]) ∧
    (t.fg.rdok = true → t.fg.rdcnt.toNat = payLen dev ∧ t.fg.res = 0x0A#8) ∧
    (t.fg.rdok = false → t.fg.rdcnt.toNat < payLen dev ∧ ∃ e : BusEvent, t.fg.res = e.index) ∧
    t.slave = s.slave ∧ t.host = s.host ∧ t.cfg = s.cfg

/-! ## The slave handler -/

/-- 42_slave_protocol.md R172. -/
def Obligations.AddressedForWriteArmsReceive : Prop :=
  ∀ s : State,
    exec .evtSlaveAddressedForWrite s =
      .next { s with port := armedPort { s.port with irq := false } .rxData s.port.data true true }

/-- 42_slave_protocol.md R173. -/
def Obligations.ByteReceivedSetsDevice : Prop :=
  ∀ s : State,
    exec .evtSlaveByteReceivedAckSent s =
      .next { s with
        port := { s.port with irq := false, done := false }
        slave := { s.slave with sdev := s.port.data, soff := 0#3 } }

/-- 42_slave_protocol.md R174 and R175, a valid device: one snapshot by one call, its first byte transmitted, the cursor
created with offset 1. The answers of the peripherals are read from the input `periph` and the call is observed in `perLog`,
both the model's choice (log 8). -/
def Obligations.AddressedForReadSnapshots : Prop :=
  ∀ (s : State) (dev : DeviceId), s.slave.sdev = dev.code →
    ∃ (snap : Vector Byte 4) (call : PerCall),
      (match dev with
       | .motor =>
         call = .perMotor ∧ snap[0] = s.periph.motor ∧ snap[1] = s.slave.snap[1] ∧ snap[2] = s.slave.snap[2] ∧
           snap[3] = s.slave.snap[3]
       | .accelerometer =>
         call = .perAccel ∧ s.periph.accel = snap[3] ++ snap[2] ++ snap[1] ++ snap[0]
       | .temperatureSensor =>
         call = .perTemp ∧ s.periph.temp = snap[3] ++ snap[2] ++ snap[1] ++ snap[0]) ∧
      exec .evtSlaveAddressedForRead s =
        .next { s with
          port := armedPort { s.port with irq := false } .txData snap[0] false true
          slave := { s.slave with
            soff := 1#3, svalid := true, snap := snap, perLog := s.slave.perLog ++ [call] } }

/-- 42_slave_protocol.md R181, a read request with a device byte that names no device: no call, no snapshot, no arm, no
cursor; and 42_slave_protocol.md R176 then does nothing either. -/
def Obligations.ReadOfNoDeviceDoesNothing : Prop :=
  ∀ s : State, s.slave.sdev ≠ 0x01#8 → s.slave.sdev ≠ 0x02#8 → s.slave.sdev ≠ 0x03#8 →
    exec .evtSlaveAddressedForRead s = .next { s with port := { s.port with irq := false, done := false } } ∧
    exec .evtSlaveByteSentAckReceived s = .next { s with port := { s.port with irq := false, done := false } }

/-- 42_slave_protocol.md R176: with a cursor, a valid device and bytes left the byte at the offset is transmitted and the
offset advanced; otherwise nothing. -/
def Obligations.ByteSentTransmitsNext : Prop :=
  ∀ s : State,
    (∀ (dev : DeviceId) (i : Fin 4), s.slave.svalid = true → s.slave.sdev = dev.code → s.slave.soff.toNat = i.val →
      i.val < payLen dev →
      exec .evtSlaveByteSentAckReceived s =
        .next { s with
          port := armedPort { s.port with irq := false } .txData s.slave.snap[i] false true
          slave := { s.slave with soff := BitVec.ofNat 3 (i.val + 1) } }) ∧
    ((s.slave.svalid = false ∨ (∀ dev : DeviceId, s.slave.sdev = dev.code → payLen dev ≤ s.slave.soff.toNat)) →
      exec .evtSlaveByteSentAckReceived s = .next { s with port := { s.port with irq := false, done := false } })

/-- 42_slave_protocol.md R177: the cursor is discarded, `SDEV`, `SNAP` and `DATA` kept, the listen armed again. -/
def Obligations.StopDiscardsCursor : Prop :=
  ∀ s : State,
    exec .evtSlaveStopOrRepeatedStartReceived s =
      .next { s with
        port := armedPort { s.port with irq := false } .listen s.port.data true true
        slave := { s.slave with svalid := false, soff := 0#3 } }

/-- 42_slave_protocol.md R178 to R180: the events the handler ignores change nothing beyond the entry effects. -/
def Obligations.IgnoredEventsDoNothing : Prop :=
  ∀ (s : State) (i : Instr),
    i = .evtSlaveByteSentNackReceived ∨ i = .evtUnhandled ∨ (∃ e, i = .evtOther e) →
    exec i s = .next { s with port := { s.port with irq := false, done := false } }

/-- 42_slave_protocol.md R182 and R183, R171: a handler invocation writes no foreground register and nothing of the decoder,
arms at most once and always deferred, and calls at most one peripheral function (42_slave_protocol.md R175), which is observed
in `perLog`, the model's choice (log 8). -/
def Obligations.HandlerActsOnce : Prop :=
  ∀ s t : State, handlerStep s = .next t →
    t.fg = s.fg ∧ t.host = s.host ∧ t.cfg = s.cfg ∧ t.periph = s.periph ∧ t.port.stat = s.port.stat ∧
    t.port.irq = false ∧ t.port.done = false ∧ (s.port.ien = true → t.port.ien = true) ∧
    (t.port.trace = s.port.trace ∧ t.port.data = s.port.data ∨
      ∃ r : ArmRecord, t.port.trace = s.port.trace ++ [r] ∧ r.ien = true ∧ r.data = t.port.data) ∧
    (t.slave.perLog = s.slave.perLog ∨ ∃ c, t.slave.perLog = s.slave.perLog ++ [c])

/-- 42_slave_protocol.md R186: the slave registers change in a handler invocation and at a reset of the node, and in no other
step; and no foreground step reads them: with other slave registers it answers the same. -/
def Obligations.SlaveRegistersHaveOneWriter : Prop :=
  (∀ s t : State, step s = .next t → t.slave ≠ s.slave →
    (s.port.irq = true ∧ (s.agenda = [] ∨ s.agenda.head? = some .node)) ∨
    ∃ st, s.agenda.head? = some (.resetNode st)) ∧
  ∀ (s t : State) (regs : SlaveRegs), foregroundStep s = .next t →
    foregroundStep { s with slave := regs } = .next { t with slave := regs }

/-- 10_state.md R50, the foreground's side: a foreground step writes neither `STAT` nor `IRQ`, nothing of the slave and
nothing of the decoder. -/
def Obligations.ForegroundLeavesTheRest : Prop :=
  ∀ s t : State, foregroundStep s = .next t →
    t.slave = s.slave ∧ t.host = s.host ∧ t.cfg = s.cfg ∧ t.periph = s.periph ∧ t.agenda = s.agenda ∧
    t.port.stat = s.port.stat ∧ t.port.irq = s.port.irq

/-- 42_slave_protocol.md R185: the document's event sequence transmits exactly the four bytes of one snapshot of the
accelerometer, calls it once, and resets the cursor. The snapshot's value is the input `periph` and the call is observed in
`perLog`, both the model's choice (log 8). -/
def Obligations.SlaveReadSequence : Prop :=
  ∀ (s : State) (cs : List Completion),
    s.port.ien = true → s.port.irq = false → s.port.done = false → s.agenda = answerScript cs →
    cs.map (fun c => c.event s.cfg) =
      [.slaveAddressedForWrite, .slaveByteReceivedAckSent, .slaveAddressedForRead, .slaveByteSentAckReceived,
       .slaveByteSentAckReceived, .slaveByteSentAckReceived, .slaveStopOrRepeatedStartReceived] →
    (cs[1]?).bind (fun c => c.rx) = some 0x02#8 →
    ∃ (t : State) (d0 d1 : Byte), runSteps 14 s = .next t ∧
      t.port.trace = s.port.trace ++
        [⟨.rxData, d0, true, true⟩,
         ⟨.txData, s.periph.accel.extractLsb' 0 8, false, true⟩, ⟨.txData, s.periph.accel.extractLsb' 8 8, false, true⟩,
         ⟨.txData, s.periph.accel.extractLsb' 16 8, false, true⟩,
         ⟨.txData, s.periph.accel.extractLsb' 24 8, false, true⟩, ⟨.listen, d1, true, true⟩] ∧
      t.slave.perLog = s.slave.perLog ++ [.perAccel] ∧
      t.slave.svalid = false ∧ t.slave.soff = 0#3 ∧ t.slave.sdev = 0x02#8 ∧ t.fg = s.fg

/-- The exception of 10_state.md R52: a cursor with offset 0 arises only from a new device byte taken while a cursor exists
(42_slave_protocol.md R173). -/
def Obligations.CursorOffsetZeroOnlyByNewDevice : Prop :=
  ∀ s t : State, step s = .next t →
    t.slave.svalid = true → t.slave.soff = 0#3 → (s.slave.svalid = true → s.slave.soff ≠ 0#3) →
    s.port.irq = true ∧ s.busEvent = .slaveByteReceivedAckSent ∧ s.slave.svalid = true ∧
      t.slave.sdev = s.port.data

/-! ## The frame decoder -/

/-- 43_frame_decoder.md R191, R192: outside a frame a start delimiter enters one, every other byte changes nothing but
`FR_VALID`. -/
def Obligations.RxOutsideFrame : Prop :=
  ∀ s : State, s.host.fin = false →
    exec .rxbyteSOut s =
      .next { s with host := { s.host with frValid := false, fin := true, fcur := 0#3 } } ∧
    ∀ b : Byte, b ≠ 0x7C#8 → exec (.rxbyteEXOut b) s = .next { s with host := { s.host with frValid := false } }

/-- 43_frame_decoder.md R193, R194: inside a frame a start delimiter restarts capture at every cursor value; with the buffer
full every other byte drops the frame and is not stored. -/
def Obligations.RxRestartAndFull : Prop :=
  ∀ s : State, s.host.fin = true →
    exec .rxbyteSIn s = .next { s with host := { s.host with frValid := false, fcur := 0#3 } } ∧
    ∀ b : Byte, b ≠ 0x7C#8 → s.host.fcur = 6#3 →
      exec (.rxbyteFull b) s =
        .next { s with host := { s.host with frValid := false, fin := false, fcur := 0#3 } }

/-- 43_frame_decoder.md R196: inside a frame an ordinary byte is stored at the cursor and the cursor advances. -/
def Obligations.RxStoresByte : Prop :=
  ∀ (s : State) (b : Byte), s.host.fin = true → s.host.fcur.toNat ≤ 5 → b ≠ 0x7C#8 → b ≠ 0x0D#8 →
    ∃ buf : Vector Byte 6,
      (∀ j : Fin 6, buf[j] = if j.val = s.host.fcur.toNat then b else s.host.fbuf[j]) ∧
      exec (.rxbyteXIn b) s =
        .next { s with
          host := { s.host with
            frValid := false, fbuf := buf, fcur := BitVec.ofNat 3 (s.host.fcur.toNat + 1) } }

/-- 43_frame_decoder.md R195, R198, R199, R200: the end delimiter is stored, a valid frame is emitted with its value, every
other frame is dropped, and the decoder leaves the frame. -/
def Obligations.RxFinalizes : Prop :=
  ∀ (s : State) (k : Nat), s.host.fin = true → s.host.fcur.toNat = k → k ≤ 5 →
    ∃ buf : Vector Byte 6,
      (∀ j : Fin 6, buf[j] = if j.val = k then 0x0D#8 else s.host.fbuf[j]) ∧
      (k = 2 → s.host.fbuf[0] = 0x01#8 →
        exec .rxbyteEIn s =
          .next { s with
            host := {
              fin := false, fcur := 0#3, fbuf := buf, frValid := true, frDev := 0x01#8
              frVal := 0#24 ++ s.host.fbuf[1]
              frames := s.host.frames ++ [(0x01#8, 0#24 ++ s.host.fbuf[1])] } }) ∧
      (k = 5 → s.host.fbuf[0] = 0x02#8 ∨ s.host.fbuf[0] = 0x03#8 →
        exec .rxbyteEIn s =
          .next { s with
            host := {
              fin := false, fcur := 0#3, fbuf := buf, frValid := true, frDev := s.host.fbuf[0]
              frVal := s.host.fbuf[4] ++ s.host.fbuf[3] ++ s.host.fbuf[2] ++ s.host.fbuf[1]
              frames := s.host.frames ++
                [(s.host.fbuf[0], s.host.fbuf[4] ++ s.host.fbuf[3] ++ s.host.fbuf[2] ++ s.host.fbuf[1])] } }) ∧
      (¬ (k = 2 ∧ s.host.fbuf[0] = 0x01#8) → ¬ (k = 5 ∧ (s.host.fbuf[0] = 0x02#8 ∨ s.host.fbuf[0] = 0x03#8)) →
        exec .rxbyteEIn s =
          .next { s with host := { s.host with fin := false, fcur := 0#3, fbuf := buf, frValid := false } })

/-- 43_frame_decoder.md R190: RXBYTE cannot fail, and touches nothing but the decoder. -/
def Obligations.RxByteNeverFails : Prop :=
  ∀ (s : State) (b : Byte), HostInv s.host →
    ∃ h : HostDecoder, exec (.rxbyte b) s = .next { s with host := h } ∧ HostInv h ∧
      (h.frValid = true ↔ h.frames ≠ s.host.frames) ∧
      (h.frValid = true → h.frames = s.host.frames ++ [(h.frDev, h.frVal)]) ∧
      (h.frValid = false → h.frDev = s.host.frDev ∧ h.frVal = s.host.frVal)

/-- The case rows of RXBYTE are RXBYTE: in every decoder state the case the context selects has the effect of the whole
operation (43_frame_decoder.md R190, R197). -/
def Obligations.RxCasesAreRxByte : Prop :=
  ∀ (s : State) (b : Byte), exec (decodeByte s.host.context b) s = exec (.rxbyte b) s

/-- 43_frame_decoder.md R201: the start delimiter is never stored. -/
def Obligations.StartDelimiterNeverStored : Prop :=
  ∀ (s t : State) (b : Byte) (j : Fin 6), exec (.rxbyte b) s = .next t →
    t.host.fbuf[j] = 0x7C#8 → s.host.fbuf[j] = 0x7C#8

/-- A frame whose payload holds no delimiter is delivered: from outside a frame its bytes emit exactly its one pair
(43_frame_decoder.md R190 to R200; 30_encoding.md R110, R113, R114). -/
def Obligations.CleanFrameDelivered : Prop :=
  ∀ (s : State) (dev : DeviceId) (val : Word),
    s.host.fin = false → s.agenda = byteScript (frameEncode dev val) → NoDelimiter (payloadBytes dev val) →
    ∃ t, runSteps (frameEncode dev val).length s = .next t ∧
      t.host.frames = s.host.frames ++ [(dev.code, payloadValue dev val)] ∧
      t.host.fin = false ∧ t.host.fcur = 0#3 ∧ t.host.frValid = true ∧ t.host.frDev = dev.code ∧
      t.host.frVal = payloadValue dev val ∧ t.port = s.port ∧ t.fg = s.fg ∧ t.slave = s.slave

/-- A frame one of whose payload bytes is a delimiter is never delivered: whatever its bytes emit, it is not its pair
(70_reset_and_hazards.md R256). -/
def Obligations.InBandDelimiterLosesFrame : Prop :=
  ∀ (s t : State) (dev : DeviceId) (val : Word),
    s.host.fin = false → s.agenda = byteScript (frameEncode dev val) → ¬ NoDelimiter (payloadBytes dev val) →
    runSteps (frameEncode dev val).length s = .next t →
    ∃ out : List (Byte × Word), t.host.frames = s.host.frames ++ out ∧ (dev.code, payloadValue dev val) ∉ out

/-- 20_memory.md R63: the value a slave snapshots, its bytes received in order by RDDEV, framed and decoded, comes out bit
for bit, for every pattern none of whose bytes is a delimiter. -/
def Obligations.FloatRoundTrip : Prop :=
  ∀ (s : State) (f : Foreground) (p : Peripherals) (old : Vector Byte 4) (dev : DeviceId) (v : Word),
    (dev = .accelerometer ∧ v = p.accel) ∨ (dev = .temperatureSensor ∧ v = p.temp) →
    f.rdbuf = snapshotBytes p old dev →
    f.rdval = v ∧
    (s.host.fin = false → s.agenda = byteScript (frameEncode dev f.rdval) → NoDelimiter f.rdbuf.toList →
      ∃ t, runSteps 7 s = .next t ∧ t.host.frVal = v ∧ t.host.frames = s.host.frames ++ [(dev.code, v)])

/-! ## The whole machine -/

/-- The invariant holds at reset (70_reset_and_hazards.md R241, R242). -/
def Obligations.InvAtReset : Prop := MachineInv State.reset

/-- The invariant (10_state.md R52, 43_frame_decoder.md R204, 30_encoding.md R96 among it) is kept by every step, from every
state that meets it and whatever the schedule. -/
def Obligations.StepKeepsInv : Prop := ∀ s t : State, MachineInv s → step s = .next t → MachineInv t

/-- No error is a trap (60_exceptions.md R216) and an index outside a buffer is never generated (20_memory.md R65): from
every state that meets the invariant the machine steps on. -/
def Obligations.MachineNeverStops : Prop := ∀ s : State, MachineInv s → ∃ t, step s = .next t

/-- 70_reset_and_hazards.md R241 and R242, the values the spec gives. -/
def Obligations.ResetValues : Prop :=
  State.reset.port.data = 0x00#8 ∧ State.reset.port.done = false ∧ State.reset.port.ien = false ∧
  State.reset.port.irq = false ∧ State.reset.port.armKind.code = 0b111#3 ∧ State.reset.port.armAck = false ∧
  State.reset.port.armPend = false ∧ State.reset.port.trace = [] ∧
  State.reset.fg.res = 0x00#8 ∧ State.reset.fg.busy = false ∧ State.reset.fg.cmd = none ∧
  State.reset.fg.rdok = false ∧ State.reset.fg.rdcnt = 0#3 ∧ (∀ j : Fin 4, State.reset.fg.rdbuf[j] = 0x00#8) ∧
  State.reset.fg.mstep.code = 0#4 ∧
  State.reset.slave.sdev = 0x00#8 ∧ State.reset.slave.soff = 0#3 ∧ State.reset.slave.svalid = false ∧
  (∀ j : Fin 4, State.reset.slave.snap[j] = 0x00#8) ∧
  State.reset.host.fin = false ∧ State.reset.host.fcur = 0#3 ∧ State.reset.host.frValid = false ∧
  State.reset.host.frDev = 0x00#8 ∧ State.reset.host.frVal = 0x00000000#32 ∧ State.reset.host.frames = []

/-- 70_reset_and_hazards.md R240: a reset of the node leaves the decoder, a reset of the decoder leaves the node, each in one
step and whatever the instance held; `STAT` and `FBUF` are left at any value (R243, R242). -/
def Obligations.ResetsAreIndependent : Prop :=
  ∀ (s : State) (rest : List Move),
    (∀ stat, s.agenda = .resetNode stat :: rest →
      step s =
        .next { s with
          port := { State.reset.port with stat := stat }
          fg := State.reset.fg
          slave := State.reset.slave
          agenda := rest }) ∧
    (∀ fbuf, s.agenda = .resetHost fbuf :: rest →
      step s = .next { s with host := { State.reset.host with fbuf := fbuf }, agenda := rest })

/-- The parameters are never written (10_state.md R49), and `TRACE` and `FRAMES` only grow, by at most one record a step,
except at a reset (10_state.md R31, R48; 42_slave_protocol.md R183; 43_frame_decoder.md R200). -/
def Obligations.HistoriesGrow : Prop :=
  ∀ s t : State, step s = .next t →
    t.cfg = s.cfg ∧
    ((∀ st, s.agenda.head? ≠ some (.resetNode st)) →
      ∃ recs : List ArmRecord, recs.length ≤ 1 ∧ t.port.trace = s.port.trace ++ recs) ∧
    ((∀ fb, s.agenda.head? ≠ some (.resetHost fb)) →
      ∃ out : List (Byte × Word), out.length ≤ 1 ∧ t.host.frames = s.host.frames ++ out)
end

