-- ==== Sys2Proof/Laws/Decode.lean ====
section
/-! SUPPORT. The fields of a packed command word, and what the decoders can answer. -/

namespace Sys2Proof

/-! ## The fields of a packed command word (30_encoding.md R91) -/

section fields
variable (op : BitVec 4) (d : Bool) (rsv : BitVec 9) (m : BitVec 2) (a1 a0 : Byte)

/-- Bit `i` of a packed command word, field by field. -/
theorem getLsbD_packCmd (i : Nat) :
    (packCmd op d rsv m a1 a0).getLsbD i =
      if i < 8 then a0.getLsbD i
      else if i < 16 then a1.getLsbD (i - 8)
      else if i < 18 then m.getLsbD (i - 16)
      else if i < 27 then rsv.getLsbD (i - 18)
      else if i = 27 then d
      else op.getLsbD (i - 28) := by
  change BitVec.getLsbD (w := 4 + 1 + 9 + 2 + 8 + 8)
    (op ++ BitVec.ofBool d ++ rsv ++ m ++ a1 ++ a0) i = _
  simp only [BitVec.getLsbD_append, BitVec.getLsbD_ofBool]
  split_ifs <;> first | omega | rfl | skip
  have h : i - 8 - 8 - 2 - 9 = 0 := by omega
  simp [h]

@[simp] theorem cmdArg0_packCmd : cmdArg0 (packCmd op d rsv m a1 a0) = a0 := by
  unfold cmdArg0
  ext i hi
  simp [getLsbD_packCmd, hi]

@[simp] theorem cmdArg1_packCmd : cmdArg1 (packCmd op d rsv m a1 a0) = a1 := by
  unfold cmdArg1
  ext i hi
  have h0 : ¬ 8 + i < 8 := by omega
  have h1 : 8 + i < 16 := by omega
  simp [getLsbD_packCmd, h0, h1, hi]

@[simp] theorem cmdMod_packCmd : cmdMod (packCmd op d rsv m a1 a0) = m := by
  unfold cmdMod
  ext i hi
  have h0 : ¬ 16 + i < 8 := by omega
  have h1 : ¬ 16 + i < 16 := by omega
  have h2 : 16 + i < 18 := by omega
  simp [getLsbD_packCmd, h0, h1, h2, hi]

@[simp] theorem cmdRsv_packCmd : cmdRsv (packCmd op d rsv m a1 a0) = rsv := by
  unfold cmdRsv
  ext i hi
  have h0 : ¬ 18 + i < 8 := by omega
  have h1 : ¬ 18 + i < 16 := by omega
  have h2 : ¬ 18 + i < 18 := by omega
  have h3 : 18 + i < 27 := by omega
  simp [getLsbD_packCmd, h0, h1, h2, h3, hi]

@[simp] theorem cmdDefer_packCmd : cmdDefer (packCmd op d rsv m a1 a0) = d := by
  unfold cmdDefer
  simp only [getLsbD_packCmd]
  simp

@[simp] theorem cmdOp_packCmd : cmdOp (packCmd op d rsv m a1 a0) = op := by
  unfold cmdOp
  ext i hi
  have h0 : ¬ 28 + i < 8 := by omega
  have h1 : ¬ 28 + i < 16 := by omega
  have h2 : ¬ 28 + i < 18 := by omega
  have h3 : ¬ 28 + i < 27 := by omega
  have h4 : ¬ 28 + i = 27 := by omega
  simp [getLsbD_packCmd, h0, h1, h2, h3, h4, hi]

end fields

/-- A command word is its fields, no bit left over (30_encoding.md R91). -/
theorem packCmd_fields (w : Word) :
    packCmd (cmdOp w) (cmdDefer w) (cmdRsv w) (cmdMod w) (cmdArg1 w) (cmdArg0 w) = w := by
  apply BitVec.eq_of_getLsbD_eq
  intro i hi
  rw [getLsbD_packCmd]
  simp only [cmdOp, cmdDefer, cmdRsv, cmdMod, cmdArg1, cmdArg0, BitVec.getLsbD_extractLsb']
  split_ifs with h0 h1 h2 h3 h4
  · simp [h0]
  · have h : 8 + (i - 8) = i := by omega
    have h' : i - 8 < 8 := by omega
    simp [h, h']
  · have h : 16 + (i - 16) = i := by omega
    have h' : i - 16 < 2 := by omega
    simp [h, h']
  · have h : 18 + (i - 18) = i := by omega
    have h' : i - 18 < 9 := by omega
    simp [h, h']
  · rw [h4]
  · have h : 28 + (i - 28) = i := by omega
    have h' : i - 28 < 4 := by omega
    simp [h, h']

/-- The operation code of a word laid out as `OP` and the 28 bits below it (30_encoding.md R91). -/
theorem cmdOp_append (op : BitVec 4) (rest : BitVec 28) : cmdOp (op ++ rest) = op := by
  apply BitVec.eq_of_getLsbD_eq
  intro i hi
  rw [cmdOp, BitVec.getLsbD_extractLsb']
  have h : ¬ 28 + i < 28 := by omega
  rw [BitVec.getLsbD_append]
  simp [h, hi]

/-! ## What the decoders can answer -/

theorem decodePlain_ok {w : Word} {i j : Instr} :
    decodePlain w j = .ok i ↔ cmdMod w = 0#2 ∧ cmdArg1 w = 0#8 ∧ cmdArg0 w = 0#8 ∧ j = i := by
  unfold decodePlain
  by_cases h1 : cmdMod w = 0#2 <;> by_cases h2 : cmdArg1 w = 0#8 <;> by_cases h3 : cmdArg0 w = 0#8 <;>
    simp [h1, h2, h3]

theorem decodeSaddr_ok {w : Word} {i : Instr} :
    decodeSaddr w = .ok i ↔
      ∃ dir, Direction.ofMod (cmdMod w) = some dir ∧ cmdArg1 w = 0#8 ∧ (cmdArg0 w).getLsbD 7 = false ∧
        Instr.saddr (cmdDefer w) dir ((cmdArg0 w).extractLsb' 0 7) = i := by
  unfold decodeSaddr
  cases hd : Direction.ofMod (cmdMod w) with
  | none => simp
  | some dir =>
    by_cases h2 : cmdArg1 w = 0#8 <;> cases h3 : (cmdArg0 w).getLsbD 7 <;> simp [h2]

theorem decodeSbyte_ok {w : Word} {i : Instr} :
    decodeSbyte w = .ok i ↔
      cmdMod w = 0#2 ∧ cmdArg1 w = 0#8 ∧ Instr.sbyte (cmdDefer w) (cmdArg0 w) = i := by
  unfold decodeSbyte
  by_cases h1 : cmdMod w = 0#2 <;> by_cases h2 : cmdArg1 w = 0#8 <;> simp [h1, h2]

theorem decodeRbyte_ok {w : Word} {i : Instr} :
    decodeRbyte w = .ok i ↔
      ∃ policy, AckPolicy.ofMod (cmdMod w) = some policy ∧ cmdArg1 w = 0#8 ∧ cmdArg0 w = 0#8 ∧
        Instr.rbyte (cmdDefer w) policy = i := by
  unfold decodeRbyte
  cases hd : AckPolicy.ofMod (cmdMod w) with
  | none => simp
  | some policy =>
    by_cases h2 : cmdArg1 w = 0#8 <;> by_cases h3 : cmdArg0 w = 0#8 <;> simp [h2, h3]

theorem decodeRddev_ok {w : Word} {i : Instr} :
    decodeRddev w = .ok i ↔
      cmdDefer w = false ∧ cmdMod w = 0#2 ∧
      ∃ dev, DeviceId.ofByte (cmdArg1 w) = some dev ∧ (cmdArg0 w).getLsbD 7 = false ∧
        Instr.rddev ((cmdArg0 w).extractLsb' 0 7) dev = i := by
  unfold decodeRddev
  cases hd : DeviceId.ofByte (cmdArg1 w) with
  | none => cases h0 : cmdDefer w <;> by_cases h1 : cmdMod w = 0#2 <;> simp [h1]
  | some dev =>
    cases h0 : cmdDefer w <;> by_cases h1 : cmdMod w = 0#2 <;> cases h3 : (cmdArg0 w).getLsbD 7 <;> simp [h1]

/-- What the command decoder answers, by the operation code (30_encoding.md R92). -/
theorem decodeCmd_eq (w : Word) :
    (isReservedOp (cmdOp w) = true ∧ decodeCmd w = .ok (.reservedOp (cmdOp w) (w.extractLsb' 0 28))) ∨
    (isReservedOp (cmdOp w) = false ∧ cmdRsv w ≠ 0#9 ∧ decodeCmd w = .error .reservedFieldNotZero) ∨
    (cmdRsv w = 0#9 ∧
      ((cmdOp w = 0x1#4 ∧ decodeCmd w = decodePlain w (.start (cmdDefer w))) ∨
       (cmdOp w = 0x2#4 ∧ decodeCmd w = decodePlain w (.rstart (cmdDefer w))) ∨
       (cmdOp w = 0x3#4 ∧ decodeCmd w = decodePlain w (.stop (cmdDefer w))) ∨
       (cmdOp w = 0x4#4 ∧ decodeCmd w = decodeSaddr w) ∨
       (cmdOp w = 0x5#4 ∧ decodeCmd w = decodeSbyte w) ∨
       (cmdOp w = 0x6#4 ∧ decodeCmd w = decodeRbyte w) ∨
       (cmdOp w = 0x7#4 ∧ decodeCmd w = decodePlain w (.listen (cmdDefer w))) ∨
       (cmdOp w = 0x8#4 ∧ decodeCmd w = decodeRddev w))) := by
  have hop : ∀ op : BitVec 4, isReservedOp op = false →
      op = 0x1#4 ∨ op = 0x2#4 ∨ op = 0x3#4 ∨ op = 0x4#4 ∨ op = 0x5#4 ∨ op = 0x6#4 ∨ op = 0x7#4 ∨ op = 0x8#4 := by
    decide
  cases hr : isReservedOp (cmdOp w)
  · by_cases hz : cmdRsv w = 0#9
    · refine .inr (.inr ⟨hz, ?_⟩)
      rcases hop _ hr with h | h | h | h | h | h | h | h <;> simp [decodeCmd, h, hz, isReservedOp]
    · exact .inr (.inl ⟨rfl, hz, by simp [decodeCmd, hr, hz]⟩)
  · exact .inl ⟨rfl, by simp [decodeCmd, hr]⟩

/-- A command word decodes to a reserved operation code, to a primitive that arms a proper kind, or to RDDEV. -/
theorem decodeCmd_cases {w : Word} {i : Instr} (h : decodeCmd w = .ok i) :
    (∃ op rest, i = .reservedOp op rest ∧ isReservedOp op = true) ∨
    (∃ k a l d, Machine.primitiveArm i = some (k, a, l, d) ∧ k ≠ .none) ∨
    ∃ peer dev, i = .rddev peer dev := by
  rcases decodeCmd_eq w with ⟨hr, e⟩ | ⟨_, _, e⟩ | ⟨_, ⟨_, e⟩ | ⟨_, e⟩ | ⟨_, e⟩ | ⟨_, e⟩ | ⟨_, e⟩ | ⟨_, e⟩ | ⟨_, e⟩ | ⟨_, e⟩⟩ <;>
    rw [e] at h
  · injection h with h; exact .inl ⟨_, _, h.symm, hr⟩
  · cases h
  · obtain ⟨_, _, _, rfl⟩ := decodePlain_ok.mp h; exact .inr (.inl ⟨_, _, _, _, rfl, by decide⟩)
  · obtain ⟨_, _, _, rfl⟩ := decodePlain_ok.mp h; exact .inr (.inl ⟨_, _, _, _, rfl, by decide⟩)
  · obtain ⟨_, _, _, rfl⟩ := decodePlain_ok.mp h; exact .inr (.inl ⟨_, _, _, _, rfl, by decide⟩)
  · obtain ⟨dir, _, _, _, rfl⟩ := decodeSaddr_ok.mp h
    cases dir <;> exact .inr (.inl ⟨_, _, _, _, rfl, by decide⟩)
  · obtain ⟨_, _, rfl⟩ := decodeSbyte_ok.mp h; exact .inr (.inl ⟨_, _, _, _, rfl, by decide⟩)
  · obtain ⟨policy, _, _, _, rfl⟩ := decodeRbyte_ok.mp h
    cases policy <;> exact .inr (.inl ⟨_, _, _, _, rfl, by decide⟩)
  · obtain ⟨_, _, _, rfl⟩ := decodePlain_ok.mp h; exact .inr (.inl ⟨_, _, _, _, rfl, by decide⟩)
  · obtain ⟨_, _, dev, _, _, rfl⟩ := decodeRddev_ok.mp h; exact .inr (.inr ⟨_, dev, rfl⟩)

/-- The event decoder is total and inverse to the index (30_encoding.md R97). -/
theorem ofIndex_index (e : BusEvent) : BusEvent.ofIndex e.index = some e := by cases e <;> rfl

/-- Every event's instruction is well formed. -/
theorem decodeEvent_wellFormed (e : BusEvent) : (decodeEvent e).wellFormed = true := by cases e <;> rfl

/-- A device byte names the device it encodes and no other (30_encoding.md R104). -/
theorem ofByte_eq_some {b : Byte} {d : DeviceId} : DeviceId.ofByte b = some d ↔ b = d.code := by
  unfold DeviceId.ofByte
  cases d <;> simp only [DeviceId.code] <;> split_ifs <;> simp_all

@[simp] theorem ofByte_code (d : DeviceId) : DeviceId.ofByte d.code = some d := ofByte_eq_some.mpr rfl

end Sys2Proof
end

