-- ==== Sys2Proof/Laws/State.lean ====
section
/-! SUPPORT. One lemma per field per update of State: what each named operation of Machine/Ops.lean leaves in each field, so
that no later proof unfolds a record update. -/

namespace Sys2Proof.Machine

/-! ### loadData -/

@[simp] theorem loadData_cfg (s : State) (b : Option Byte) : (s.loadData b).cfg = s.cfg := by cases b <;> rfl
@[simp] theorem loadData_fg (s : State) (b : Option Byte) : (s.loadData b).fg = s.fg := by cases b <;> rfl
@[simp] theorem loadData_slave (s : State) (b : Option Byte) : (s.loadData b).slave = s.slave := by cases b <;> rfl
@[simp] theorem loadData_host (s : State) (b : Option Byte) : (s.loadData b).host = s.host := by cases b <;> rfl
@[simp] theorem loadData_periph (s : State) (b : Option Byte) : (s.loadData b).periph = s.periph := by cases b <;> rfl
@[simp] theorem loadData_agenda (s : State) (b : Option Byte) : (s.loadData b).agenda = s.agenda := by cases b <;> rfl
@[simp] theorem loadData_stat (s : State) (b : Option Byte) : (s.loadData b).port.stat = s.port.stat := by cases b <;> rfl
@[simp] theorem loadData_data (s : State) (b : Option Byte) : (s.loadData b).port.data = b.getD s.port.data := by cases b <;> rfl
@[simp] theorem loadData_done (s : State) (b : Option Byte) : (s.loadData b).port.done = s.port.done := by cases b <;> rfl
@[simp] theorem loadData_ien (s : State) (b : Option Byte) : (s.loadData b).port.ien = s.port.ien := by cases b <;> rfl
@[simp] theorem loadData_irq (s : State) (b : Option Byte) : (s.loadData b).port.irq = s.port.irq := by cases b <;> rfl
@[simp] theorem loadData_armKind (s : State) (b : Option Byte) : (s.loadData b).port.armKind = s.port.armKind := by cases b <;> rfl
@[simp] theorem loadData_armAck (s : State) (b : Option Byte) : (s.loadData b).port.armAck = s.port.armAck := by cases b <;> rfl
@[simp] theorem loadData_armPend (s : State) (b : Option Byte) : (s.loadData b).port.armPend = s.port.armPend := by cases b <;> rfl
@[simp] theorem loadData_trace (s : State) (b : Option Byte) : (s.loadData b).port.trace = s.port.trace := by cases b <;> rfl

/-! ### arm -/

@[simp] theorem arm_cfg (s : State) (k : ArmKind) (a e : Bool) : (s.arm k a e).cfg = s.cfg := rfl
@[simp] theorem arm_fg (s : State) (k : ArmKind) (a e : Bool) : (s.arm k a e).fg = s.fg := rfl
@[simp] theorem arm_slave (s : State) (k : ArmKind) (a e : Bool) : (s.arm k a e).slave = s.slave := rfl
@[simp] theorem arm_host (s : State) (k : ArmKind) (a e : Bool) : (s.arm k a e).host = s.host := rfl
@[simp] theorem arm_periph (s : State) (k : ArmKind) (a e : Bool) : (s.arm k a e).periph = s.periph := rfl
@[simp] theorem arm_agenda (s : State) (k : ArmKind) (a e : Bool) : (s.arm k a e).agenda = s.agenda := rfl
@[simp] theorem arm_stat (s : State) (k : ArmKind) (a e : Bool) : (s.arm k a e).port.stat = s.port.stat := rfl
@[simp] theorem arm_data (s : State) (k : ArmKind) (a e : Bool) : (s.arm k a e).port.data = s.port.data := rfl
@[simp] theorem arm_done (s : State) (k : ArmKind) (a e : Bool) : (s.arm k a e).port.done = false := rfl
@[simp] theorem arm_ien (s : State) (k : ArmKind) (a e : Bool) : (s.arm k a e).port.ien = e := rfl
@[simp] theorem arm_irq (s : State) (k : ArmKind) (a e : Bool) : (s.arm k a e).port.irq = s.port.irq := rfl
@[simp] theorem arm_armKind (s : State) (k : ArmKind) (a e : Bool) : (s.arm k a e).port.armKind = k := rfl
@[simp] theorem arm_armAck (s : State) (k : ArmKind) (a e : Bool) : (s.arm k a e).port.armAck = a := rfl
@[simp] theorem arm_armPend (s : State) (k : ArmKind) (a e : Bool) : (s.arm k a e).port.armPend = true := rfl
@[simp] theorem arm_trace (s : State) (k : ArmKind) (a e : Bool) : (s.arm k a e).port.trace = s.port.trace ++ [⟨k, s.port.data, a, e⟩] := rfl

/-! ### phyComplete -/

@[simp] theorem phyComplete_cfg (s : State) (st : Byte) (rx : Option Byte) : (s.phyComplete st rx).cfg = s.cfg := rfl
@[simp] theorem phyComplete_fg (s : State) (st : Byte) (rx : Option Byte) : (s.phyComplete st rx).fg = s.fg := rfl
@[simp] theorem phyComplete_slave (s : State) (st : Byte) (rx : Option Byte) : (s.phyComplete st rx).slave = s.slave := rfl
@[simp] theorem phyComplete_host (s : State) (st : Byte) (rx : Option Byte) : (s.phyComplete st rx).host = s.host := rfl
@[simp] theorem phyComplete_periph (s : State) (st : Byte) (rx : Option Byte) : (s.phyComplete st rx).periph = s.periph := rfl
@[simp] theorem phyComplete_agenda (s : State) (st : Byte) (rx : Option Byte) : (s.phyComplete st rx).agenda = s.agenda := rfl
@[simp] theorem phyComplete_stat (s : State) (st : Byte) (rx : Option Byte) : (s.phyComplete st rx).port.stat = st := rfl
@[simp] theorem phyComplete_data (s : State) (st : Byte) (rx : Option Byte) : (s.phyComplete st rx).port.data = rx.getD s.port.data := rfl
@[simp] theorem phyComplete_done (s : State) (st : Byte) (rx : Option Byte) : (s.phyComplete st rx).port.done = true := rfl
@[simp] theorem phyComplete_ien (s : State) (st : Byte) (rx : Option Byte) : (s.phyComplete st rx).port.ien = s.port.ien := rfl
@[simp] theorem phyComplete_irq (s : State) (st : Byte) (rx : Option Byte) : (s.phyComplete st rx).port.irq = (s.port.irq || s.port.ien) := rfl
@[simp] theorem phyComplete_armKind (s : State) (st : Byte) (rx : Option Byte) : (s.phyComplete st rx).port.armKind = s.port.armKind := rfl
@[simp] theorem phyComplete_armAck (s : State) (st : Byte) (rx : Option Byte) : (s.phyComplete st rx).port.armAck = s.port.armAck := rfl
@[simp] theorem phyComplete_armPend (s : State) (st : Byte) (rx : Option Byte) : (s.phyComplete st rx).port.armPend = false := rfl
@[simp] theorem phyComplete_trace (s : State) (st : Byte) (rx : Option Byte) : (s.phyComplete st rx).port.trace = s.port.trace := rfl

/-! ### enterHandler -/

@[simp] theorem enterHandler_cfg (s : State) : (s.enterHandler).cfg = s.cfg := rfl
@[simp] theorem enterHandler_fg (s : State) : (s.enterHandler).fg = s.fg := rfl
@[simp] theorem enterHandler_slave (s : State) : (s.enterHandler).slave = s.slave := rfl
@[simp] theorem enterHandler_host (s : State) : (s.enterHandler).host = s.host := rfl
@[simp] theorem enterHandler_periph (s : State) : (s.enterHandler).periph = s.periph := rfl
@[simp] theorem enterHandler_agenda (s : State) : (s.enterHandler).agenda = s.agenda := rfl
@[simp] theorem enterHandler_stat (s : State) : (s.enterHandler).port.stat = s.port.stat := rfl
@[simp] theorem enterHandler_data (s : State) : (s.enterHandler).port.data = s.port.data := rfl
@[simp] theorem enterHandler_done (s : State) : (s.enterHandler).port.done = false := rfl
@[simp] theorem enterHandler_ien (s : State) : (s.enterHandler).port.ien = s.port.ien := rfl
@[simp] theorem enterHandler_irq (s : State) : (s.enterHandler).port.irq = false := rfl
@[simp] theorem enterHandler_armKind (s : State) : (s.enterHandler).port.armKind = s.port.armKind := rfl
@[simp] theorem enterHandler_armAck (s : State) : (s.enterHandler).port.armAck = s.port.armAck := rfl
@[simp] theorem enterHandler_armPend (s : State) : (s.enterHandler).port.armPend = s.port.armPend := rfl
@[simp] theorem enterHandler_trace (s : State) : (s.enterHandler).port.trace = s.port.trace := rfl

/-! ### leaveHandler -/

@[simp] theorem leaveHandler_eq (s : State) : s.leaveHandler = s := rfl

/-! ### handlerArm -/

@[simp] theorem handlerArm_cfg (s : State) (k : ArmKind) (a : Bool) (b : Option Byte) : (s.handlerArm k a b).cfg = s.cfg := by cases b <;> rfl
@[simp] theorem handlerArm_fg (s : State) (k : ArmKind) (a : Bool) (b : Option Byte) : (s.handlerArm k a b).fg = s.fg := by cases b <;> rfl
@[simp] theorem handlerArm_slave (s : State) (k : ArmKind) (a : Bool) (b : Option Byte) : (s.handlerArm k a b).slave = s.slave := by cases b <;> rfl
@[simp] theorem handlerArm_host (s : State) (k : ArmKind) (a : Bool) (b : Option Byte) : (s.handlerArm k a b).host = s.host := by cases b <;> rfl
@[simp] theorem handlerArm_periph (s : State) (k : ArmKind) (a : Bool) (b : Option Byte) : (s.handlerArm k a b).periph = s.periph := by cases b <;> rfl
@[simp] theorem handlerArm_agenda (s : State) (k : ArmKind) (a : Bool) (b : Option Byte) : (s.handlerArm k a b).agenda = s.agenda := by cases b <;> rfl
@[simp] theorem handlerArm_stat (s : State) (k : ArmKind) (a : Bool) (b : Option Byte) : (s.handlerArm k a b).port.stat = s.port.stat := by cases b <;> rfl
@[simp] theorem handlerArm_data (s : State) (k : ArmKind) (a : Bool) (b : Option Byte) : (s.handlerArm k a b).port.data = b.getD s.port.data := by cases b <;> rfl
@[simp] theorem handlerArm_done (s : State) (k : ArmKind) (a : Bool) (b : Option Byte) : (s.handlerArm k a b).port.done = false := by cases b <;> rfl
@[simp] theorem handlerArm_ien (s : State) (k : ArmKind) (a : Bool) (b : Option Byte) : (s.handlerArm k a b).port.ien = true := by cases b <;> rfl
@[simp] theorem handlerArm_irq (s : State) (k : ArmKind) (a : Bool) (b : Option Byte) : (s.handlerArm k a b).port.irq = s.port.irq := by cases b <;> rfl
@[simp] theorem handlerArm_armKind (s : State) (k : ArmKind) (a : Bool) (b : Option Byte) : (s.handlerArm k a b).port.armKind = k := by cases b <;> rfl
@[simp] theorem handlerArm_armAck (s : State) (k : ArmKind) (a : Bool) (b : Option Byte) : (s.handlerArm k a b).port.armAck = a := by cases b <;> rfl
@[simp] theorem handlerArm_armPend (s : State) (k : ArmKind) (a : Bool) (b : Option Byte) : (s.handlerArm k a b).port.armPend = true := by cases b <;> rfl
@[simp] theorem handlerArm_trace (s : State) (k : ArmKind) (a : Bool) (b : Option Byte) : (s.handlerArm k a b).port.trace = s.port.trace ++ [⟨k, b.getD s.port.data, a, true⟩] := by cases b <;> rfl

/-! ### the foreground registers -/

@[simp] theorem setRes_cfg (s : State) (v : Byte) : (s.setRes v).cfg = s.cfg := rfl
@[simp] theorem setRes_port (s : State) (v : Byte) : (s.setRes v).port = s.port := rfl
@[simp] theorem setRes_slave (s : State) (v : Byte) : (s.setRes v).slave = s.slave := rfl
@[simp] theorem setRes_host (s : State) (v : Byte) : (s.setRes v).host = s.host := rfl
@[simp] theorem setRes_periph (s : State) (v : Byte) : (s.setRes v).periph = s.periph := rfl
@[simp] theorem setRes_agenda (s : State) (v : Byte) : (s.setRes v).agenda = s.agenda := rfl
@[simp] theorem setRes_cmd (s : State) (v : Byte) : (s.setRes v).fg.cmd = s.fg.cmd := rfl
@[simp] theorem setRes_res (s : State) (v : Byte) : (s.setRes v).fg.res = v := rfl
@[simp] theorem setRes_busy (s : State) (v : Byte) : (s.setRes v).fg.busy = s.fg.busy := rfl
@[simp] theorem setRes_rdok (s : State) (v : Byte) : (s.setRes v).fg.rdok = s.fg.rdok := rfl
@[simp] theorem setRes_rdcnt (s : State) (v : Byte) : (s.setRes v).fg.rdcnt = s.fg.rdcnt := rfl
@[simp] theorem setRes_rdbuf (s : State) (v : Byte) : (s.setRes v).fg.rdbuf = s.fg.rdbuf := rfl
@[simp] theorem setRes_mstep (s : State) (v : Byte) : (s.setRes v).fg.mstep = s.fg.mstep := rfl
@[simp] theorem setRes_peer (s : State) (v : Byte) : (s.setRes v).fg.peer = s.fg.peer := rfl
@[simp] theorem setRes_dev (s : State) (v : Byte) : (s.setRes v).fg.dev = s.fg.dev := rfl
@[simp] theorem setRes_evt (s : State) (v : Byte) : (s.setRes v).fg.evt = s.fg.evt := rfl
@[simp] theorem setBusy_cfg (s : State) (v : Bool) : (s.setBusy v).cfg = s.cfg := rfl
@[simp] theorem setBusy_port (s : State) (v : Bool) : (s.setBusy v).port = s.port := rfl
@[simp] theorem setBusy_slave (s : State) (v : Bool) : (s.setBusy v).slave = s.slave := rfl
@[simp] theorem setBusy_host (s : State) (v : Bool) : (s.setBusy v).host = s.host := rfl
@[simp] theorem setBusy_periph (s : State) (v : Bool) : (s.setBusy v).periph = s.periph := rfl
@[simp] theorem setBusy_agenda (s : State) (v : Bool) : (s.setBusy v).agenda = s.agenda := rfl
@[simp] theorem setBusy_cmd (s : State) (v : Bool) : (s.setBusy v).fg.cmd = s.fg.cmd := rfl
@[simp] theorem setBusy_res (s : State) (v : Bool) : (s.setBusy v).fg.res = s.fg.res := rfl
@[simp] theorem setBusy_busy (s : State) (v : Bool) : (s.setBusy v).fg.busy = v := rfl
@[simp] theorem setBusy_rdok (s : State) (v : Bool) : (s.setBusy v).fg.rdok = s.fg.rdok := rfl
@[simp] theorem setBusy_rdcnt (s : State) (v : Bool) : (s.setBusy v).fg.rdcnt = s.fg.rdcnt := rfl
@[simp] theorem setBusy_rdbuf (s : State) (v : Bool) : (s.setBusy v).fg.rdbuf = s.fg.rdbuf := rfl
@[simp] theorem setBusy_mstep (s : State) (v : Bool) : (s.setBusy v).fg.mstep = s.fg.mstep := rfl
@[simp] theorem setBusy_peer (s : State) (v : Bool) : (s.setBusy v).fg.peer = s.fg.peer := rfl
@[simp] theorem setBusy_dev (s : State) (v : Bool) : (s.setBusy v).fg.dev = s.fg.dev := rfl
@[simp] theorem setBusy_evt (s : State) (v : Bool) : (s.setBusy v).fg.evt = s.fg.evt := rfl
@[simp] theorem finishCommand_cfg (s : State) (e : BusEvent) : (s.finishCommand e).cfg = s.cfg := rfl
@[simp] theorem finishCommand_port (s : State) (e : BusEvent) : (s.finishCommand e).port = s.port := rfl
@[simp] theorem finishCommand_slave (s : State) (e : BusEvent) : (s.finishCommand e).slave = s.slave := rfl
@[simp] theorem finishCommand_host (s : State) (e : BusEvent) : (s.finishCommand e).host = s.host := rfl
@[simp] theorem finishCommand_periph (s : State) (e : BusEvent) : (s.finishCommand e).periph = s.periph := rfl
@[simp] theorem finishCommand_agenda (s : State) (e : BusEvent) : (s.finishCommand e).agenda = s.agenda := rfl
@[simp] theorem finishCommand_cmd (s : State) (e : BusEvent) : (s.finishCommand e).fg.cmd = s.fg.cmd := rfl
@[simp] theorem finishCommand_res (s : State) (e : BusEvent) : (s.finishCommand e).fg.res = e.index := rfl
@[simp] theorem finishCommand_busy (s : State) (e : BusEvent) : (s.finishCommand e).fg.busy = false := rfl
@[simp] theorem finishCommand_rdok (s : State) (e : BusEvent) : (s.finishCommand e).fg.rdok = s.fg.rdok := rfl
@[simp] theorem finishCommand_rdcnt (s : State) (e : BusEvent) : (s.finishCommand e).fg.rdcnt = s.fg.rdcnt := rfl
@[simp] theorem finishCommand_rdbuf (s : State) (e : BusEvent) : (s.finishCommand e).fg.rdbuf = s.fg.rdbuf := rfl
@[simp] theorem finishCommand_mstep (s : State) (e : BusEvent) : (s.finishCommand e).fg.mstep = s.fg.mstep := rfl
@[simp] theorem finishCommand_peer (s : State) (e : BusEvent) : (s.finishCommand e).fg.peer = s.fg.peer := rfl
@[simp] theorem finishCommand_dev (s : State) (e : BusEvent) : (s.finishCommand e).fg.dev = s.fg.dev := rfl
@[simp] theorem finishCommand_evt (s : State) (e : BusEvent) : (s.finishCommand e).fg.evt = s.fg.evt := rfl
@[simp] theorem rejectCommand_cfg (s : State) (w : Word) : (s.rejectCommand w).cfg = s.cfg := rfl
@[simp] theorem rejectCommand_port (s : State) (w : Word) : (s.rejectCommand w).port = s.port := rfl
@[simp] theorem rejectCommand_slave (s : State) (w : Word) : (s.rejectCommand w).slave = s.slave := rfl
@[simp] theorem rejectCommand_host (s : State) (w : Word) : (s.rejectCommand w).host = s.host := rfl
@[simp] theorem rejectCommand_periph (s : State) (w : Word) : (s.rejectCommand w).periph = s.periph := rfl
@[simp] theorem rejectCommand_agenda (s : State) (w : Word) : (s.rejectCommand w).agenda = s.agenda := rfl
@[simp] theorem rejectCommand_cmd (s : State) (w : Word) : (s.rejectCommand w).fg.cmd = s.fg.cmd := rfl
@[simp] theorem rejectCommand_res (s : State) (w : Word) : (s.rejectCommand w).fg.res = resInvalid := rfl
@[simp] theorem rejectCommand_busy (s : State) (w : Word) : (s.rejectCommand w).fg.busy = s.fg.busy := rfl
@[simp] theorem rejectCommand_rdok (s : State) (w : Word) : (s.rejectCommand w).fg.rdok = (s.fg.rdok && cmdOp w != 0x8#4) := rfl
@[simp] theorem rejectCommand_rdcnt (s : State) (w : Word) : (s.rejectCommand w).fg.rdcnt = s.fg.rdcnt := rfl
@[simp] theorem rejectCommand_rdbuf (s : State) (w : Word) : (s.rejectCommand w).fg.rdbuf = s.fg.rdbuf := rfl
@[simp] theorem rejectCommand_mstep (s : State) (w : Word) : (s.rejectCommand w).fg.mstep = s.fg.mstep := rfl
@[simp] theorem rejectCommand_peer (s : State) (w : Word) : (s.rejectCommand w).fg.peer = s.fg.peer := rfl
@[simp] theorem rejectCommand_dev (s : State) (w : Word) : (s.rejectCommand w).fg.dev = s.fg.dev := rfl
@[simp] theorem rejectCommand_evt (s : State) (w : Word) : (s.rejectCommand w).fg.evt = s.fg.evt := rfl
@[simp] theorem takeCommand_cfg (s : State) : (s.takeCommand).cfg = s.cfg := rfl
@[simp] theorem takeCommand_port (s : State) : (s.takeCommand).port = s.port := rfl
@[simp] theorem takeCommand_slave (s : State) : (s.takeCommand).slave = s.slave := rfl
@[simp] theorem takeCommand_host (s : State) : (s.takeCommand).host = s.host := rfl
@[simp] theorem takeCommand_periph (s : State) : (s.takeCommand).periph = s.periph := rfl
@[simp] theorem takeCommand_agenda (s : State) : (s.takeCommand).agenda = s.agenda := rfl
@[simp] theorem takeCommand_cmd (s : State) : (s.takeCommand).fg.cmd = none := rfl
@[simp] theorem takeCommand_res (s : State) : (s.takeCommand).fg.res = s.fg.res := rfl
@[simp] theorem takeCommand_busy (s : State) : (s.takeCommand).fg.busy = s.fg.busy := rfl
@[simp] theorem takeCommand_rdok (s : State) : (s.takeCommand).fg.rdok = s.fg.rdok := rfl
@[simp] theorem takeCommand_rdcnt (s : State) : (s.takeCommand).fg.rdcnt = s.fg.rdcnt := rfl
@[simp] theorem takeCommand_rdbuf (s : State) : (s.takeCommand).fg.rdbuf = s.fg.rdbuf := rfl
@[simp] theorem takeCommand_mstep (s : State) : (s.takeCommand).fg.mstep = s.fg.mstep := rfl
@[simp] theorem takeCommand_peer (s : State) : (s.takeCommand).fg.peer = s.fg.peer := rfl
@[simp] theorem takeCommand_dev (s : State) : (s.takeCommand).fg.dev = s.fg.dev := rfl
@[simp] theorem takeCommand_evt (s : State) : (s.takeCommand).fg.evt = s.fg.evt := rfl

/-! ### primitive -/

@[simp] theorem primitive_cfg (s : State) (k : ArmKind) (a : Bool) (b : Option Byte) (d : Bool) : (s.primitive k a b d).cfg = s.cfg := by cases b <;> cases d <;> rfl
@[simp] theorem primitive_slave (s : State) (k : ArmKind) (a : Bool) (b : Option Byte) (d : Bool) : (s.primitive k a b d).slave = s.slave := by cases b <;> cases d <;> rfl
@[simp] theorem primitive_host (s : State) (k : ArmKind) (a : Bool) (b : Option Byte) (d : Bool) : (s.primitive k a b d).host = s.host := by cases b <;> cases d <;> rfl
@[simp] theorem primitive_periph (s : State) (k : ArmKind) (a : Bool) (b : Option Byte) (d : Bool) : (s.primitive k a b d).periph = s.periph := by cases b <;> cases d <;> rfl
@[simp] theorem primitive_agenda (s : State) (k : ArmKind) (a : Bool) (b : Option Byte) (d : Bool) : (s.primitive k a b d).agenda = s.agenda := by cases b <;> cases d <;> rfl
@[simp] theorem primitive_stat (s : State) (k : ArmKind) (a : Bool) (b : Option Byte) (d : Bool) : (s.primitive k a b d).port.stat = s.port.stat := by cases b <;> cases d <;> rfl
@[simp] theorem primitive_data (s : State) (k : ArmKind) (a : Bool) (b : Option Byte) (d : Bool) : (s.primitive k a b d).port.data = b.getD s.port.data := by cases b <;> cases d <;> rfl
@[simp] theorem primitive_done (s : State) (k : ArmKind) (a : Bool) (b : Option Byte) (d : Bool) : (s.primitive k a b d).port.done = false := by cases b <;> cases d <;> rfl
@[simp] theorem primitive_ien (s : State) (k : ArmKind) (a : Bool) (b : Option Byte) (d : Bool) : (s.primitive k a b d).port.ien = d := by cases b <;> cases d <;> rfl
@[simp] theorem primitive_irq (s : State) (k : ArmKind) (a : Bool) (b : Option Byte) (d : Bool) : (s.primitive k a b d).port.irq = s.port.irq := by cases b <;> cases d <;> rfl
@[simp] theorem primitive_armKind (s : State) (k : ArmKind) (a : Bool) (b : Option Byte) (d : Bool) : (s.primitive k a b d).port.armKind = k := by cases b <;> cases d <;> rfl
@[simp] theorem primitive_armAck (s : State) (k : ArmKind) (a : Bool) (b : Option Byte) (d : Bool) : (s.primitive k a b d).port.armAck = a := by cases b <;> cases d <;> rfl
@[simp] theorem primitive_armPend (s : State) (k : ArmKind) (a : Bool) (b : Option Byte) (d : Bool) : (s.primitive k a b d).port.armPend = true := by cases b <;> cases d <;> rfl
@[simp] theorem primitive_trace (s : State) (k : ArmKind) (a : Bool) (b : Option Byte) (d : Bool) : (s.primitive k a b d).port.trace = s.port.trace ++ [⟨k, b.getD s.port.data, a, d⟩] := by cases b <;> cases d <;> rfl
@[simp] theorem primitive_cmd (s : State) (k : ArmKind) (a : Bool) (b : Option Byte) (d : Bool) : (s.primitive k a b d).fg.cmd = s.fg.cmd := by cases b <;> cases d <;> rfl
@[simp] theorem primitive_res (s : State) (k : ArmKind) (a : Bool) (b : Option Byte) (d : Bool) : (s.primitive k a b d).fg.res = bif d then resDeferred else s.fg.res := by cases b <;> cases d <;> rfl
@[simp] theorem primitive_busy (s : State) (k : ArmKind) (a : Bool) (b : Option Byte) (d : Bool) : (s.primitive k a b d).fg.busy = (s.fg.busy || !d) := by cases b <;> cases d <;> simp [State.primitive]
@[simp] theorem primitive_rdok (s : State) (k : ArmKind) (a : Bool) (b : Option Byte) (d : Bool) : (s.primitive k a b d).fg.rdok = s.fg.rdok := by cases b <;> cases d <;> rfl
@[simp] theorem primitive_rdcnt (s : State) (k : ArmKind) (a : Bool) (b : Option Byte) (d : Bool) : (s.primitive k a b d).fg.rdcnt = s.fg.rdcnt := by cases b <;> cases d <;> rfl
@[simp] theorem primitive_rdbuf (s : State) (k : ArmKind) (a : Bool) (b : Option Byte) (d : Bool) : (s.primitive k a b d).fg.rdbuf = s.fg.rdbuf := by cases b <;> cases d <;> rfl
@[simp] theorem primitive_mstep (s : State) (k : ArmKind) (a : Bool) (b : Option Byte) (d : Bool) : (s.primitive k a b d).fg.mstep = s.fg.mstep := by cases b <;> cases d <;> rfl
@[simp] theorem primitive_peer (s : State) (k : ArmKind) (a : Bool) (b : Option Byte) (d : Bool) : (s.primitive k a b d).fg.peer = s.fg.peer := by cases b <;> cases d <;> rfl
@[simp] theorem primitive_dev (s : State) (k : ArmKind) (a : Bool) (b : Option Byte) (d : Bool) : (s.primitive k a b d).fg.dev = s.fg.dev := by cases b <;> cases d <;> rfl
@[simp] theorem primitive_evt (s : State) (k : ArmKind) (a : Bool) (b : Option Byte) (d : Bool) : (s.primitive k a b d).fg.evt = s.fg.evt := by cases b <;> cases d <;> rfl

/-! ### the two resets -/

@[simp] theorem resetNode_cfg (s : State) (st : Byte) : (s.resetNode st).cfg = s.cfg := rfl
@[simp] theorem resetNode_host (s : State) (st : Byte) : (s.resetNode st).host = s.host := rfl
@[simp] theorem resetNode_periph (s : State) (st : Byte) : (s.resetNode st).periph = s.periph := rfl
@[simp] theorem resetNode_agenda (s : State) (st : Byte) : (s.resetNode st).agenda = s.agenda := rfl
@[simp] theorem resetNode_port (s : State) (st : Byte) : (s.resetNode st).port = Port.reset st := rfl
@[simp] theorem resetNode_fg (s : State) (st : Byte) : (s.resetNode st).fg = Foreground.reset := rfl
@[simp] theorem resetNode_slave (s : State) (st : Byte) : (s.resetNode st).slave = SlaveRegs.reset := rfl
@[simp] theorem resetHost_cfg (s : State) (b : Vector Byte 6) : (s.resetHost b).cfg = s.cfg := rfl
@[simp] theorem resetHost_port (s : State) (b : Vector Byte 6) : (s.resetHost b).port = s.port := rfl
@[simp] theorem resetHost_fg (s : State) (b : Vector Byte 6) : (s.resetHost b).fg = s.fg := rfl
@[simp] theorem resetHost_slave (s : State) (b : Vector Byte 6) : (s.resetHost b).slave = s.slave := rfl
@[simp] theorem resetHost_periph (s : State) (b : Vector Byte 6) : (s.resetHost b).periph = s.periph := rfl
@[simp] theorem resetHost_agenda (s : State) (b : Vector Byte 6) : (s.resetHost b).agenda = s.agenda := rfl
@[simp] theorem resetHost_host (s : State) (b : Vector Byte 6) : (s.resetHost b).host = HostDecoder.reset b := rfl

end Sys2Proof.Machine
end

