-- ==== Sys2Proof/Laws/Ops.lean ====
section
/-! SUPPORT. One lemma per shared operation that says everything it can do; callers cite it instead of unfolding the
operation. -/

namespace Sys2Proof.Machine

/-! ## Buffers -/

theorem writeBuf_some {n : Nat} {v w : Vector Byte n} {i : Nat} {b : Byte} (h : writeBuf v i b = some w) :
    ∃ hi : i < n, w = v.set i b hi := by
  unfold writeBuf at h
  split at h
  · next hi => exact ⟨hi, by simpa using h.symm⟩
  · cases h

theorem writeBuf_of_lt {n : Nat} (v : Vector Byte n) {i : Nat} (b : Byte) (hi : i < n) :
    writeBuf v i b = some (v.set i b hi) := by
  simp [writeBuf, hi]

theorem readBuf_of_lt {n : Nat} (v : Vector Byte n) {i : Nat} (hi : i < n) : readBuf v i = some v[i] := by
  simp [readBuf, hi]

theorem payLen_pos (d : DeviceId) : 1 ≤ payLen d := by cases d <;> decide

theorem payLen_le (d : DeviceId) : payLen d ≤ 4 := by cases d <;> decide

/-! ## Byte order -/

theorem wordBytes_get (v : Word) :
    (wordBytes v)[0] = v.extractLsb' 0 8 ∧ (wordBytes v)[1] = v.extractLsb' 8 8 ∧
    (wordBytes v)[2] = v.extractLsb' 16 8 ∧ (wordBytes v)[3] = v.extractLsb' 24 8 := ⟨rfl, rfl, rfl, rfl⟩

/-! ## The frame decoder -/

/-- Everything the whole RXBYTE can do: one of the six cases, each with its condition. -/
theorem rxByte_cases (h : HostDecoder) (b : Byte) :
    (h.fin = false ∧ b = startDelim ∧ h.rxByte b = some h.enterFrame) ∨
    (h.fin = false ∧ b ≠ startDelim ∧ h.rxByte b = some h.ignoreStray) ∨
    (h.fin = true ∧ b = startDelim ∧ h.rxByte b = some h.restartFrame) ∨
    (h.fin = true ∧ b ≠ startDelim ∧ h.fcur = 6#3 ∧ h.rxByte b = some h.dropFrame) ∨
    (h.fin = true ∧ b = endDelim ∧ h.fcur ≠ 6#3 ∧ h.rxByte b = h.finalize) ∨
    (h.fin = true ∧ b ≠ startDelim ∧ b ≠ endDelim ∧ h.fcur ≠ 6#3 ∧ h.rxByte b = h.storeByte b) := by
  unfold HostDecoder.rxByte
  cases hf : h.fin <;> by_cases hs : b = startDelim <;> by_cases he : b = endDelim <;> by_cases h6 : h.fcur = 6#3 <;>
    simp_all [startDelim, endDelim]

/-- Everything `storeByte` can do. -/
theorem storeByte_some {h t : HostDecoder} {b : Byte} (e : h.storeByte b = some t) :
    ∃ hi : h.fcur.toNat < 6,
      t = { h with frValid := false, fbuf := h.fbuf.set h.fcur.toNat b hi, fcur := h.fcur + 1#3 } := by
  unfold HostDecoder.storeByte at e
  split at e
  · cases e
  · next buf hb =>
    obtain ⟨hi, rfl⟩ := writeBuf_some hb
    exact ⟨hi, by simpa using e.symm⟩

/-- Everything `finalize` can do: the decoder leaves the frame, and emits exactly when the frame is valid. -/
theorem finalize_some {h t : HostDecoder} (e : h.finalize = some t) :
    ∃ hi : h.fcur.toNat < 6,
      let buf := h.fbuf.set h.fcur.toNat endDelim hi
      let left : HostDecoder := { h with frValid := false, fbuf := buf, fin := false, fcur := 0#3 }
      (frameOf buf h.fcur.toNat = none ∧ t = left) ∨
      ∃ f, frameOf buf h.fcur.toNat = some f ∧ t = left.emit f := by
  unfold HostDecoder.finalize at e
  split at e
  · cases e
  · next buf hb =>
    obtain ⟨hi, rfl⟩ := writeBuf_some hb
    refine ⟨hi, ?_⟩
    split at e
    · next hn => exact .inl ⟨hn, by simpa using e.symm⟩
    · next f hs => exact .inr ⟨f, hs, by simpa using e.symm⟩

/-- The answer of an RXBYTE put back into the state. -/
theorem withHost_next {s t : State} {h : Option HostDecoder} (e : s.withHost h = .next t) :
    ∃ h', h = some h' ∧ t = { s with host := h' } := by
  unfold State.withHost at e
  split at e
  · next h' => exact ⟨h', rfl, by injection e with e; exact e.symm⟩
  · cases e

/-! ## The master protocol -/

/-- Everything the completion of a receive can do. -/
theorem mdpByte_cases (e : BusEvent) (s : State) :
    (e ≠ mdpWant s.fg.dev s.fg.rdcnt.toNat ∧ mdpByte e s = .next (mdpFail e s)) ∨
    (e = mdpWant s.fg.dev s.fg.rdcnt.toNat ∧ 4 ≤ s.fg.rdcnt.toNat ∧
      mdpByte e s = .fault (.bufferIndex .rdbuf s.fg.rdcnt.toNat)) ∨
    ∃ hi : s.fg.rdcnt.toNat < 4,
      let t : State :=
        { s with fg := { s.fg with rdbuf := s.fg.rdbuf.set s.fg.rdcnt.toNat s.port.data hi, rdcnt := s.fg.rdcnt + 1#3 } }
      e = mdpWant s.fg.dev s.fg.rdcnt.toNat ∧
      ((s.fg.rdcnt.toNat + 1 = payLen s.fg.dev ∧ mdpByte e s = .next (mdpStop .stopOk e t)) ∨
       (s.fg.rdcnt.toNat + 1 ≠ payLen s.fg.dev ∧ mdpByte e s = .next (mdpArmReceive (s.fg.rdcnt.toNat + 1) t))) := by
  by_cases he : e = mdpWant s.fg.dev s.fg.rdcnt.toNat
  · by_cases hi : s.fg.rdcnt.toNat < 4
    · refine .inr (.inr ⟨hi, he, ?_⟩)
      by_cases hl : s.fg.rdcnt.toNat + 1 = payLen s.fg.dev
      · exact .inl ⟨hl, by simp [mdpByte, ← he, writeBuf_of_lt _ _ hi, hl]⟩
      · exact .inr ⟨hl, by simp [mdpByte, ← he, writeBuf_of_lt _ _ hi, hl]⟩
    · exact .inr (.inl ⟨he, by omega, by simp [mdpByte, ← he, writeBuf, hi]⟩)
  · exact .inl ⟨he, by simp [mdpByte, he]⟩

/-! ## The agents -/

/-- A handler invocation never refuses and never faults while `SOFF` stays below the payload: every transition answers a
next state in which only the port and the slave registers differ (42_slave_protocol.md R171, R182). -/
theorem handlerStep_next {s t : State} (e : handlerStep s = .next t) :
    t.cfg = s.cfg ∧ t.fg = s.fg ∧ t.host = s.host ∧ t.periph = s.periph ∧ t.agenda = s.agenda := by
  unfold handlerStep at e
  cases hb : s.busEvent <;> rw [hb] at e
  all_goals
    simp only [decodeEvent, exec, execEvtSlaveAddressedForWrite, execEvtSlaveByteReceivedAckSent,
      execEvtSlaveAddressedForRead, execEvtSlaveByteSentAckReceived, execEvtSlaveStopOrRepeatedStartReceived,
      execEvtSlaveByteSentNackReceived, execEvtUnhandled, execEvtOther] at e
  all_goals
    first
    | (injection e with e; subst e; simp)
    | (split at e
       · first
         | (injection e with e; subst e; simp)
         | (split at e
            · cases e
            · injection e with e; subst e; simp)
       · injection e with e; subst e; simp [takeSnapshot])

end Sys2Proof.Machine
end

