-- ==== Sys2Proof/Laws/PerInstr.lean ====
section
/-! SUPPORT. The per-instruction family `RowWord`: a well-formed instruction's encoding is a word of its row of
spec/opcode_table.json, held against the row's own match, mask and context. -/

namespace Sys2Proof.Laws.RowWord

open Sys2Proof

/-- The words of one row of spec/opcode_table.json. -/
inductive Row where
  /-- A command word with the row's mask and match. -/
  | word (mask pattern : Word)
  /-- A command word whose operation code is reserved. -/
  | reservedWord
  /-- The byte the row matches, in the row's context. -/
  | byteIs (ctx : RxContext) (b : Byte)
  /-- Any byte but those the row excludes, in the row's context. -/
  | byteNot (ctx : RxContext) (excluded : List Byte)
  /-- The event index the row matches. -/
  | indexIs (ix : Byte)
  /-- The indices the row lists. -/
  | indexIn (ixs : List Byte)

/-- Which inputs are words of a row. -/
def Row.admits : Row → Code → Bool
  | .word mask pattern, .command w => w &&& mask == pattern
  | .reservedWord, .command w => isReservedOp (cmdOp w)
  | .byteIs ctx b, .received c x => c == ctx && x == b
  | .byteNot ctx excluded, .received c x => c == ctx && !excluded.contains x
  | .indexIs ix, .event x => x == ix
  | .indexIn ixs, .event x => ixs.contains x
  | _, _ => false

/-- The row of each instruction, copied from spec/opcode_table.json. -/
def rowOf : Instr → Row
  | .start _ => .word 0xF7FFFFFF#32 0x10000000#32
  | .rstart _ => .word 0xF7FFFFFF#32 0x20000000#32
  | .stop _ => .word 0xF7FFFFFF#32 0x30000000#32
  | .saddr _ _ _ => .word 0xF7FEFF80#32 0x40000000#32
  | .sbyte _ _ => .word 0xF7FFFF00#32 0x50000000#32
  | .rbyte _ _ => .word 0xF7FEFFFF#32 0x60000000#32
  | .listen _ => .word 0xF7FFFFFF#32 0x70000000#32
  | .rddev _ _ => .word 0xFFFFFC80#32 0x80000000#32
  | .reservedOp _ _ => .reservedWord
  | .rxbyte _ => .byteNot .anyState []
  | .rxbyteSOut => .byteIs .outside 0x7C#8
  | .rxbyteEXOut _ => .byteNot .outside [0x7C#8]
  | .rxbyteSIn => .byteIs .capturing 0x7C#8
  | .rxbyteFull _ => .byteNot .full [0x7C#8]
  | .rxbyteEIn => .byteIs .capturing 0x0D#8
  | .rxbyteXIn _ => .byteNot .capturing [0x7C#8, 0x0D#8]
  | .evtSlaveAddressedForWrite => .indexIs 0x0C#8
  | .evtSlaveByteReceivedAckSent => .indexIs 0x0F#8
  | .evtSlaveAddressedForRead => .indexIs 0x0D#8
  | .evtSlaveByteSentAckReceived => .indexIs 0x11#8
  | .evtSlaveStopOrRepeatedStartReceived => .indexIs 0x13#8
  | .evtSlaveByteSentNackReceived => .indexIs 0x12#8
  | .evtUnhandled => .indexIs 0x14#8
  | .evtOther _ =>
    .indexIn [0x01#8, 0x02#8, 0x03#8, 0x04#8, 0x05#8, 0x06#8, 0x07#8, 0x08#8, 0x09#8, 0x0A#8, 0x0B#8, 0x0E#8, 0x10#8]

/-- A well-formed instruction encodes to a word of its row. -/
def Statement (i : Instr) : Prop := i.wellFormed = true → (rowOf i).admits (encode i) = true

theorem start (d : Bool) : Statement (.start d) := fun _ => by cases d <;> decide
theorem rstart (d : Bool) : Statement (.rstart d) := fun _ => by cases d <;> decide
theorem stop (d : Bool) : Statement (.stop d) := fun _ => by cases d <;> decide
theorem listen (d : Bool) : Statement (.listen d) := fun _ => by cases d <;> decide
theorem rbyte (d : Bool) (p : AckPolicy) : Statement (.rbyte d p) := fun _ => by cases d <;> cases p <;> decide

theorem saddr (d : Bool) (dir : Direction) (a : BitVec 7) : Statement (.saddr d dir a) := fun _ => by
  revert a
  cases d <;> cases dir <;> decide

theorem sbyte (d : Bool) (b : Byte) : Statement (.sbyte d b) := fun _ => by
  revert b
  cases d <;> decide

theorem rddev (peer : BitVec 7) (dev : DeviceId) : Statement (.rddev peer dev) := fun _ => by
  revert peer
  cases dev <;> decide

theorem reservedOp (op : BitVec 4) (rest : BitVec 28) : Statement (.reservedOp op rest) := fun h => by
  change isReservedOp (cmdOp (op ++ rest)) = true
  rw [cmdOp_append]
  exact h

theorem rxbyte (b : Byte) : Statement (.rxbyte b) := fun _ => rfl
theorem rxbyteSOut : Statement .rxbyteSOut := fun _ => rfl
theorem rxbyteEXOut (b : Byte) : Statement (.rxbyteEXOut b) := fun h => by
  simpa [Instr.wellFormed, startDelim, rowOf, encode, Row.admits] using h
theorem rxbyteSIn : Statement .rxbyteSIn := fun _ => rfl
theorem rxbyteFull (b : Byte) : Statement (.rxbyteFull b) := fun h => by
  simpa [Instr.wellFormed, startDelim, rowOf, encode, Row.admits] using h
theorem rxbyteEIn : Statement .rxbyteEIn := fun _ => rfl
theorem rxbyteXIn (b : Byte) : Statement (.rxbyteXIn b) := fun h => by
  simpa [Instr.wellFormed, startDelim, endDelim, rowOf, encode, Row.admits] using h

theorem evtSlaveAddressedForWrite : Statement .evtSlaveAddressedForWrite := fun _ => rfl
theorem evtSlaveByteReceivedAckSent : Statement .evtSlaveByteReceivedAckSent := fun _ => rfl
theorem evtSlaveAddressedForRead : Statement .evtSlaveAddressedForRead := fun _ => rfl
theorem evtSlaveByteSentAckReceived : Statement .evtSlaveByteSentAckReceived := fun _ => rfl
theorem evtSlaveStopOrRepeatedStartReceived : Statement .evtSlaveStopOrRepeatedStartReceived := fun _ => rfl
theorem evtSlaveByteSentNackReceived : Statement .evtSlaveByteSentNackReceived := fun _ => rfl
theorem evtUnhandled : Statement .evtUnhandled := fun _ => rfl
theorem evtOther (e : BusEvent) : Statement (.evtOther e) := fun h => by
  cases e <;> first | (cases h; done) | decide

end Sys2Proof.Laws.RowWord
end

