-- ==== Sys2Proof/Tests/Slice0.lean ====
section
/-! SUPPORT. Tests. The checks of WellFormed, each with a term it refuses; the decoding of words written out from the spec's
encodings (30_encoding.md R91 to R97 and 95_test_vectors.md 2.1, 2.2); one-step tests whose expected values are the vectors
of 95_test_vectors.md; and for every statement with hypotheses a witness that meets them. -/

namespace Sys2Proof.Tests

open Sys2Proof Sys2Proof.Machine

/-- A view of the next state, if the operation answers one. -/
def after {α : Type} (r : Result) (f : State → α) : Option α :=
  match r with
  | .next t => some (f t)
  | _ => none

/-! ## WellFormed: one refused term for each check -/

theorem test_wf_refuses_reservedOp_of_a_command : (Instr.reservedOp 0x1#4 0#28).wellFormed = false := by decide
theorem test_wf_refuses_reservedOp_of_rddev : (Instr.reservedOp 0x8#4 0#28).wellFormed = false := by decide
theorem test_wf_refuses_stray_start_delimiter : (Instr.rxbyteEXOut 0x7C#8).wellFormed = false := by decide
theorem test_wf_refuses_start_delimiter_when_full : (Instr.rxbyteFull 0x7C#8).wellFormed = false := by decide
theorem test_wf_refuses_stored_start_delimiter : (Instr.rxbyteXIn 0x7C#8).wellFormed = false := by decide
theorem test_wf_refuses_stored_end_delimiter : (Instr.rxbyteXIn 0x0D#8).wellFormed = false := by decide
theorem test_wf_refuses_named_slave_event : (Instr.evtOther .slaveAddressedForRead).wellFormed = false := by decide
theorem test_wf_refuses_unhandled_as_other : (Instr.evtOther .unhandled).wellFormed = false := by decide

/-! ## Decoding: legal command words (95_test_vectors.md 2.1) -/

theorem test_decode_start : decodeCmd 0x10000000#32 = .ok (.start false) := by decide
theorem test_decode_start_deferred : decodeCmd 0x18000000#32 = .ok (.start true) := by decide
theorem test_decode_rstart : decodeCmd 0x20000000#32 = .ok (.rstart false) := by decide
theorem test_decode_rstart_deferred : decodeCmd 0x28000000#32 = .ok (.rstart true) := by decide
theorem test_decode_stop : decodeCmd 0x30000000#32 = .ok (.stop false) := by decide
theorem test_decode_stop_deferred : decodeCmd 0x38000000#32 = .ok (.stop true) := by decide
theorem test_decode_saddr_write : decodeCmd 0x40000020#32 = .ok (.saddr false .write 0x20#7) := by decide
theorem test_decode_saddr_read_last_address : decodeCmd 0x4001007F#32 = .ok (.saddr false .read 0x7F#7) := by decide
theorem test_decode_saddr_deferred : decodeCmd 0x48010020#32 = .ok (.saddr true .read 0x20#7) := by decide
theorem test_decode_sbyte : decodeCmd 0x500000FF#32 = .ok (.sbyte false 0xFF#8) := by decide
theorem test_decode_sbyte_deferred : decodeCmd 0x580000AA#32 = .ok (.sbyte true 0xAA#8) := by decide
theorem test_decode_rbyte_nack : decodeCmd 0x60000000#32 = .ok (.rbyte false .nack) := by decide
theorem test_decode_rbyte_ack_deferred : decodeCmd 0x68010000#32 = .ok (.rbyte true .ack) := by decide
theorem test_decode_listen : decodeCmd 0x70000000#32 = .ok (.listen false) := by decide
theorem test_decode_listen_deferred : decodeCmd 0x78000000#32 = .ok (.listen true) := by decide
theorem test_decode_rddev_motor : decodeCmd 0x80000120#32 = .ok (.rddev 0x20#7 .motor) := by decide
theorem test_decode_rddev_accelerometer : decodeCmd 0x80000220#32 = .ok (.rddev 0x20#7 .accelerometer) := by decide
theorem test_decode_rddev_temperature : decodeCmd 0x80000321#32 = .ok (.rddev 0x21#7 .temperatureSensor) := by decide
theorem test_decode_reserved_zero : decodeCmd 0x00000000#32 = .ok (.reservedOp 0x0#4 0#28) := by decide
theorem test_decode_reserved_nine : decodeCmd 0x90000000#32 = .ok (.reservedOp 0x9#4 0#28) := by decide
theorem test_decode_reserved_last : decodeCmd 0xFFFFFFFF#32 = .ok (.reservedOp 0xF#4 0xFFFFFFF#28) := by decide

/-! ## Decoding: command words that are not legal (95_test_vectors.md 2.1) -/

theorem test_decode_refuses_start_arg0 : decodeCmd 0x10000001#32 = .error .arg0NotZero := by decide
theorem test_decode_refuses_start_mod : decodeCmd 0x10010000#32 = .error .modNotZero := by decide
theorem test_decode_refuses_rsv_bit18 : decodeCmd 0x10040000#32 = .error .reservedFieldNotZero := by decide
theorem test_decode_refuses_rsv_bit26 : decodeCmd 0x14000000#32 = .error .reservedFieldNotZero := by decide
theorem test_decode_refuses_stop_arg1 : decodeCmd 0x30000100#32 = .error .arg1NotZero := by decide
theorem test_decode_refuses_saddr_mod2 : decodeCmd 0x40020020#32 = .error .badDirection := by decide
theorem test_decode_refuses_saddr_mod3 : decodeCmd 0x40030020#32 = .error .badDirection := by decide
theorem test_decode_refuses_saddr_bit7 : decodeCmd 0x40000080#32 = .error .addressBit7Set := by decide
theorem test_decode_refuses_sbyte_mod : decodeCmd 0x50010002#32 = .error .modNotZero := by decide
theorem test_decode_refuses_rbyte_mod2 : decodeCmd 0x60020000#32 = .error .badAckPolicy := by decide
theorem test_decode_refuses_rbyte_mod3 : decodeCmd 0x60030000#32 = .error .badAckPolicy := by decide
theorem test_decode_refuses_rddev_defer : decodeCmd 0x88000120#32 = .error .deferNotAllowed := by decide
theorem test_decode_refuses_rddev_device0 : decodeCmd 0x80000020#32 = .error .notADevice := by decide
theorem test_decode_refuses_rddev_device4 : decodeCmd 0x80000420#32 = .error .notADevice := by decide
theorem test_decode_refuses_rddev_device255 : decodeCmd 0x8000FF20#32 = .error .notADevice := by decide
theorem test_decode_refuses_rddev_bit7 : decodeCmd 0x800001A0#32 = .error .addressBit7Set := by decide

/-! ## Decoding: events (30_encoding.md R97) and received bytes (30_encoding.md R117) -/

theorem test_decode_evtSlaveAddressedForWrite : decode (.event 0x0C#8) = .ok .evtSlaveAddressedForWrite := by decide
theorem test_decode_evtSlaveByteReceivedAckSent : decode (.event 0x0F#8) = .ok .evtSlaveByteReceivedAckSent := by decide
theorem test_decode_evtSlaveAddressedForRead : decode (.event 0x0D#8) = .ok .evtSlaveAddressedForRead := by decide
theorem test_decode_evtSlaveByteSentAckReceived : decode (.event 0x11#8) = .ok .evtSlaveByteSentAckReceived := by decide
theorem test_decode_evtSlaveStopOrRepeatedStartReceived : decode (.event 0x13#8) = .ok .evtSlaveStopOrRepeatedStartReceived := by decide
theorem test_decode_evtSlaveByteSentNackReceived : decode (.event 0x12#8) = .ok .evtSlaveByteSentNackReceived := by decide
theorem test_decode_evtUnhandled : decode (.event 0x14#8) = .ok .evtUnhandled := by decide
theorem test_decode_evtOther_first : decode (.event 0x01#8) = .ok (.evtOther .startSent) := by decide
theorem test_decode_evtOther_last : decode (.event 0x10#8) = .ok (.evtOther .slaveByteReceivedNackSent) := by decide
theorem test_decode_refuses_event_zero : decode (.event 0x00#8) = .error .notAnEvent := by decide
theorem test_decode_refuses_event_21 : decode (.event 0x15#8) = .error .notAnEvent := by decide
theorem test_decode_rxbyte : decode (.received .anyState 0x7C#8) = .ok (.rxbyte 0x7C#8) := by decide
theorem test_decode_rxbyteSOut : decode (.received .outside 0x7C#8) = .ok .rxbyteSOut := by decide
theorem test_decode_rxbyteEXOut : decode (.received .outside 0x0D#8) = .ok (.rxbyteEXOut 0x0D#8) := by decide
theorem test_decode_rxbyteSIn : decode (.received .capturing 0x7C#8) = .ok .rxbyteSIn := by decide
theorem test_decode_rxbyteSIn_full : decode (.received .full 0x7C#8) = .ok .rxbyteSIn := by decide
theorem test_decode_rxbyteFull : decode (.received .full 0x0D#8) = .ok (.rxbyteFull 0x0D#8) := by decide
theorem test_decode_rxbyteEIn : decode (.received .capturing 0x0D#8) = .ok .rxbyteEIn := by decide
theorem test_decode_rxbyteXIn : decode (.received .capturing 0x32#8) = .ok (.rxbyteXIn 0x32#8) := by decide

/-! ## The status decode with the default table (95_test_vectors.md 2.2) -/

theorem test_status_low_bits_masked :
    decodeStatus ⟨defaultStatusTable⟩ (statusCode 0x0F#8) = .startSent ∧
    decodeStatus ⟨defaultStatusTable⟩ (statusCode 0xA7#8) = .slaveStopOrRepeatedStartReceived := by decide
theorem test_status_code_order_differs :
    (decodeStatus ⟨defaultStatusTable⟩ (statusCode 0x28#8)).index = 0x07#8 ∧
    (decodeStatus ⟨defaultStatusTable⟩ (statusCode 0x40#8)).index = 0x05#8 := by decide
theorem test_status_unlisted :
    ([0x00#8, 0x68#8, 0x78#8, 0x90#8, 0x98#8, 0xB0#8, 0xC8#8, 0xD0#8, 0xD8#8, 0xE0#8, 0xE8#8, 0xF0#8, 0xF8#8, 0x07#8,
      0xFF#8].all fun b => decodeStatus ⟨defaultStatusTable⟩ (statusCode b) == .unhandled) = true := by decide

/-! ## The words of the opcode table, placed and stepped (log 10) -/

/-- The step runs the placed word as the first input after reset. -/
theorem test_placed_command :
    after (step (State.reset.withFetchWord 32 0x58000000)) (fun t => (t.fg.res, t.port.armKind)) =
      some (0x40#8, .txData) := by decide
theorem test_placed_event :
    after (step (State.reset.withFetchWord 8 0x0F)) (fun t => (t.port.irq, t.port.ien, t.slave.sdev)) =
      some (false, true, 0x00#8) := by decide
theorem test_placed_byte :
    after (step (State.reset.withFetchWord 8 0x7C)) (fun t => t.host.fin) = some true := by decide

/-! ## One step of each command (95_test_vectors.md 2.3, 2.4, 2.1) -/

/-- The registers an arm action writes, with the foreground's answer. -/
structure ArmView where
  kind : ArmKind
  ack : Bool
  pend : Bool
  done : Bool
  ien : Bool
  data : Byte
  trace : List ArmRecord
  res : Byte
  busy : Bool
deriving DecidableEq, Repr

def armView (t : State) : ArmView :=
  ⟨t.port.armKind, t.port.armAck, t.port.armPend, t.port.done, t.port.ien, t.port.data, t.port.trace, t.fg.res, t.fg.busy⟩

theorem test_start_blocking_VB1 :
    after (exec (.start false) State.reset) armView =
      some ⟨.start, false, true, false, false, 0x00#8, [⟨.start, 0x00#8, false, false⟩], 0x00#8, true⟩ := by
  decide
theorem test_start_deferred_VB2 :
    after (exec (.start true) State.reset) armView =
      some ⟨.start, false, true, false, true, 0x00#8, [⟨.start, 0x00#8, false, true⟩], 0x40#8, false⟩ := by
  decide
theorem test_rstart_VB3 :
    after (exec (.rstart false) State.reset) armView =
      some ⟨.rstart, false, true, false, false, 0x00#8, [⟨.rstart, 0x00#8, false, false⟩], 0x00#8, true⟩ := by
  decide
theorem test_stop_VB4 :
    after (exec (.stop false) State.reset) armView =
      some ⟨.stop, false, true, false, false, 0x00#8, [⟨.stop, 0x00#8, false, false⟩], 0x00#8, true⟩ := by
  decide
theorem test_saddr_write_VB5 :
    after (exec (.saddr false .write 0x20#7) State.reset) armView =
      some ⟨.txAddr, false, true, false, false, 0x40#8, [⟨.txAddr, 0x40#8, false, false⟩], 0x00#8, true⟩ := by
  decide
theorem test_saddr_read_VB5 :
    after (exec (.saddr false .read 0x7F#7) State.reset) armView =
      some ⟨.txAddr, false, true, false, false, 0xFF#8, [⟨.txAddr, 0xFF#8, false, false⟩], 0x00#8, true⟩ := by
  decide
theorem test_sbyte_VB6 :
    after (exec (.sbyte false 0x02#8) State.reset) armView =
      some ⟨.txData, false, true, false, false, 0x02#8, [⟨.txData, 0x02#8, false, false⟩], 0x00#8, true⟩ := by
  decide
theorem test_sbyte_deferred_VB6 :
    after (exec (.sbyte true 0xAA#8) State.reset) armView =
      some ⟨.txData, false, true, false, true, 0xAA#8, [⟨.txData, 0xAA#8, false, true⟩], 0x40#8, false⟩ := by
  decide
theorem test_rbyte_ack_VB7 :
    after (exec (.rbyte false .ack) State.reset) armView =
      some ⟨.rxData, true, true, false, false, 0x00#8, [⟨.rxData, 0x00#8, true, false⟩], 0x00#8, true⟩ := by
  decide
theorem test_rbyte_nack_VB7 :
    after (exec (.rbyte false .nack) State.reset) armView =
      some ⟨.rxData, false, true, false, false, 0x00#8, [⟨.rxData, 0x00#8, false, false⟩], 0x00#8, true⟩ := by
  decide
theorem test_listen_VB8 :
    after (exec (.listen false) State.reset) armView =
      some ⟨.listen, true, true, false, false, 0x00#8, [⟨.listen, 0x00#8, true, false⟩], 0x00#8, true⟩ := by
  decide
theorem test_listen_deferred_VB8 :
    after (exec (.listen true) State.reset) armView =
      some ⟨.listen, true, true, false, true, 0x00#8, [⟨.listen, 0x00#8, true, true⟩], 0x40#8, false⟩ := by
  decide
/-- V-M1, first row. -/
theorem test_rddev_VM1_start :
    after (exec (.rddev 0x20#7 .motor) State.reset)
      (fun t => (t.fg.mstep.code, t.fg.busy, t.fg.rdok, t.fg.rdcnt, t.port.trace)) =
      some (1#4, true, false, 0#3, [⟨.start, 0x00#8, false, false⟩]) := by decide
/-- 0x90000000: `RES = 0x80` and no arm. -/
theorem test_reservedOp :
    after (exec (.reservedOp 0x9#4 0#28) State.reset) (fun t => (t.fg.res, t.port.armKind, t.port.trace, t.fg.busy)) =
      some (0x80#8, .none, [], false) := by decide

/-- The foreground at the completion of the sub-operation at `m`, with `STAT`, `DATA` and `RDCNT` given. -/
def atStep (m : MStep) (dev : DeviceId) (rdcnt : BitVec 3) (evt : BusEvent) (stat data : Byte) : State :=
  { State.reset with
    port := { State.reset.port with stat := stat, data := data, done := true }
    fg := { State.reset.fg with busy := true, mstep := m, peer := 0x20#7, dev := dev, rdcnt := rdcnt, evt := evt } }

/-- The registers a completion writes. -/
structure DoneView where
  res : Byte
  busy : Bool
  mstep : MStep
  rdok : Bool
  rdcnt : BitVec 3
  rdbuf : Vector Byte 4
  trace : List ArmRecord
deriving DecidableEq, Repr

def doneView (t : State) : DoneView :=
  ⟨t.fg.res, t.fg.busy, t.fg.mstep, t.fg.rdok, t.fg.rdcnt, t.fg.rdbuf, t.port.trace⟩

/-- V-B1, Complete: `RES = 0x01`, `BUSY = 0`; `DONE` and `STAT` stay. -/
theorem test_complete_VB1 :
    after (step (atStep .idle .motor 0#3 .unhandled 0x08#8 0x00#8)) (fun t => (t.fg.res, t.fg.busy, t.port.done, t.port.stat)) =
      some (0x01#8, false, true, 0x08#8) := by decide
/-- V-M1, row 6: the byte is stored and counted, the STOP armed. -/
theorem test_rddev_VM1_byte :
    after (step (atStep .recv .motor 0#3 .unhandled 0x58#8 0x32#8)) doneView =
      some ⟨0x00#8, true, .stopOk, false, 1#3, #v[0x32#8, 0x00#8, 0x00#8, 0x00#8], [⟨.stop, 0x32#8, false, false⟩]⟩ := by decide
/-- V-M7: `MasterByteReceivedAckSent` on the last byte; nothing stored, the STOP armed. -/
theorem test_rddev_VM7_mismatch :
    after (step (atStep .recv .motor 0#3 .unhandled 0x50#8 0x32#8)) doneView =
      some ⟨0x00#8, true, .stopFail, false, 0#3, #v[0x00#8, 0x00#8, 0x00#8, 0x00#8], [⟨.stop, 0x32#8, false, false⟩]⟩ := by decide
/-- V-M2, third receive of a float: the next receive is the last and not acknowledged. -/
theorem test_rddev_VM2_third_byte :
    after (step (atStep .recv .accelerometer 2#3 .unhandled 0x50#8 0x80#8)) doneView =
      some ⟨0x00#8, true, .recv, false, 3#3, #v[0x00#8, 0x00#8, 0x80#8, 0x00#8], [⟨.rxData, 0x80#8, false, false⟩]⟩ := by decide
/-- V-M4: the start fails, no STOP. -/
theorem test_rddev_VM4 :
    after (step (atStep .start .motor 0#3 .unhandled 0x38#8 0x00#8)) doneView =
      some ⟨0x0B#8, false, .idle, false, 0#3, #v[0x00#8, 0x00#8, 0x00#8, 0x00#8], []⟩ := by decide
/-- V-M1, last row: whatever the STOP reports, success. -/
theorem test_rddev_VM1_stop :
    after (step (atStep .stopOk .motor 1#3 .masterByteReceivedNackSent 0xF8#8 0x32#8)) doneView =
      some ⟨0x0A#8, false, .idle, true, 1#3, #v[0x00#8, 0x00#8, 0x00#8, 0x00#8], []⟩ := by decide
/-- V-M3, last row: the mismatching event is reported. -/
theorem test_rddev_VM3_stop :
    after (step (atStep .stopFail .temperatureSensor 0#3 .addressWriteNackReceived 0xF8#8 0x40#8)) doneView =
      some ⟨0x04#8, false, .idle, false, 0#3, #v[0x00#8, 0x00#8, 0x00#8, 0x00#8], []⟩ := by decide
/-- 0x60020000 from reset state (S10) and V-M9, through the acceptance of the word. -/
theorem test_invalid_words :
    after (step { State.reset with fg := { State.reset.fg with cmd := some 0x60020000#32 } })
      (fun t => (t.fg.res, t.fg.busy, t.port.trace, t.port.armKind)) = some (0x80#8, false, [], .none) ∧
    after (step { State.reset with fg := { State.reset.fg with cmd := some 0x80000420#32, rdok := true } })
      (fun t => (t.fg.res, t.fg.rdok, t.port.trace)) = some (0x80#8, false, []) ∧
    after (step { State.reset with fg := { State.reset.fg with cmd := some 0x88000120#32, rdok := true } })
      (fun t => (t.fg.res, t.fg.rdok, t.port.trace)) = some (0x80#8, false, []) := by decide
/-- V-B7 and V-I1: a completion with and without a byte, with `IEN = 0` and `IEN = 1`. -/
theorem test_phy_completion :
    after (step { State.reset with agenda := [.phy 0x58#8 (some 0x32#8)] })
      (fun t => (t.port.stat, t.port.data, t.port.done, t.port.irq)) = some (0x58#8, 0x32#8, true, false) ∧
    after (step { State.reset with port := { State.reset.port with ien := true }, agenda := [.phy 0x58#8 none] })
      (fun t => (t.port.stat, t.port.data, t.port.done, t.port.irq)) = some (0x58#8, 0x00#8, true, true) := by decide

/-! ## One handler invocation for each event (95_test_vectors.md S6 and 2.5) -/

/-- The handler about to run for the event of `stat`, with `DATA` and the slave registers given. -/
def atEvent (stat data sdev : Byte) (soff : BitVec 3) (svalid : Bool) (snap : Vector Byte 4) : State :=
  { State.reset with
    port := { State.reset.port with stat := stat, data := data, done := true, ien := true, irq := true }
    slave := { State.reset.slave with sdev := sdev, soff := soff, svalid := svalid, snap := snap }
    periph := ⟨0x32#8, 0x3F800000#32, 0x42126666#32⟩ }

/-- The registers a handler invocation writes. -/
structure SlaveView where
  sdev : Byte
  soff : BitVec 3
  svalid : Bool
  snap : Vector Byte 4
  data : Byte
  trace : List ArmRecord
  perLog : List PerCall
  irq : Bool
  ien : Bool
deriving DecidableEq, Repr

def slaveView (t : State) : SlaveView :=
  ⟨t.slave.sdev, t.slave.soff, t.slave.svalid, t.slave.snap, t.port.data, t.port.trace, t.slave.perLog, t.port.irq,
    t.port.ien⟩

/-- The four zero bytes of `SNAP` after reset. -/
def snap0 : Vector Byte 4 := #v[0x00#8, 0x00#8, 0x00#8, 0x00#8]

/-- 1.0, least significant byte first. -/
def snap1 : Vector Byte 4 := #v[0x00#8, 0x00#8, 0x80#8, 0x3F#8]

/-- S6, row 1. -/
theorem test_evtSlaveAddressedForWrite_S6 : after (step (atEvent 0x60#8 0x00#8 0x00#8 0#3 false snap0)) slaveView = some ⟨0x00#8, 0#3, false, snap0, 0x00#8, [⟨.rxData, 0x00#8, true, true⟩], [], false, true⟩ := by decide
/-- S6, row 2. -/
theorem test_evtSlaveByteReceivedAckSent_S6 : after (step (atEvent 0x80#8 0x02#8 0x00#8 0#3 false snap0)) slaveView = some ⟨0x02#8, 0#3, false, snap0, 0x02#8, [], [], false, true⟩ := by decide
/-- V-S8, a new device byte while a cursor exists. -/
theorem test_evtSlaveByteReceivedAckSent_VS8 : after (step (atEvent 0x80#8 0x03#8 0x02#8 2#3 true snap1)) slaveView = some ⟨0x03#8, 0#3, true, snap1, 0x03#8, [], [], false, true⟩ := by decide
/-- S6, row 3. -/
theorem test_evtSlaveAddressedForRead_S6 : after (step (atEvent 0xA8#8 0x02#8 0x02#8 0#3 false snap0)) slaveView = some ⟨0x02#8, 1#3, true, snap1, 0x00#8, [⟨.txData, 0x00#8, false, true⟩], [.perAccel], false, true⟩ := by decide
/-- V-S3, no valid device. -/
theorem test_evtSlaveAddressedForRead_VS3 : after (step (atEvent 0xA8#8 0x55#8 0x04#8 0#3 false snap0)) slaveView = some ⟨0x04#8, 0#3, false, snap0, 0x55#8, [], [], false, true⟩ := by decide
/-- S6, row 6. -/
theorem test_evtSlaveByteSentAckReceived_S6 : after (step (atEvent 0xB8#8 0x80#8 0x02#8 3#3 true snap1)) slaveView = some ⟨0x02#8, 4#3, true, snap1, 0x3F#8, [⟨.txData, 0x3F#8, false, true⟩], [], false, true⟩ := by decide
/-- V-S5, after the fourth byte. -/
theorem test_evtSlaveByteSentAckReceived_VS5 : after (step (atEvent 0xB8#8 0x3F#8 0x02#8 4#3 true snap1)) slaveView = some ⟨0x02#8, 4#3, true, snap1, 0x3F#8, [], [], false, true⟩ := by decide
/-- S6, row 7. -/
theorem test_evtSlaveStopOrRepeatedStartReceived_S6 : after (step (atEvent 0xA0#8 0x3F#8 0x02#8 4#3 true snap1)) slaveView = some ⟨0x02#8, 0#3, false, snap1, 0x3F#8, [⟨.listen, 0x3F#8, true, true⟩], [], false, true⟩ := by decide
/-- V-S2, the final acknowledge of a Motor read. -/
theorem test_evtSlaveByteSentNackReceived_VS2 : after (step (atEvent 0xC0#8 0x32#8 0x01#8 1#3 true snap1)) slaveView = some ⟨0x01#8, 1#3, true, snap1, 0x32#8, [], [], false, true⟩ := by decide
/-- V-S7. -/
theorem test_evtUnhandled_VS7 : after (step (atEvent 0xF8#8 0x11#8 0x02#8 2#3 true snap1)) slaveView = some ⟨0x02#8, 2#3, true, snap1, 0x11#8, [], [], false, true⟩ := by decide
/-- V-S7, the general call. -/
theorem test_evtOther_VS7 : after (step (atEvent 0x70#8 0x11#8 0x02#8 2#3 true snap1)) slaveView = some ⟨0x02#8, 2#3, true, snap1, 0x11#8, [], [], false, true⟩ := by decide

/-! ## One RXBYTE in each case (95_test_vectors.md S8, S9, 2.7) -/

/-- A decoder with its frame flag, cursor and buffer given. -/
def atByte (fin : Bool) (fcur : BitVec 3) (fbuf : Vector Byte 6) : State :=
  { State.reset with host := { State.reset.host with fin := fin, fcur := fcur, fbuf := fbuf, frValid := true } }

/-- The registers an RXBYTE writes. -/
structure HostView where
  fin : Bool
  fcur : BitVec 3
  fbuf : Vector Byte 6
  frValid : Bool
  frames : List (Byte × Word)
deriving DecidableEq, Repr

def hostView (t : State) : HostView := ⟨t.host.fin, t.host.fcur, t.host.fbuf, t.host.frValid, t.host.frames⟩

/-- V-H1 before its last byte. -/
def bufMotor : Vector Byte 6 := #v[0x01#8, 0x32#8, 0x00#8, 0x00#8, 0x00#8, 0x00#8]

/-- V-H3 before its last byte. -/
def bufFloat : Vector Byte 6 := #v[0x02#8, 0x00#8, 0x00#8, 0x80#8, 0x3F#8, 0x00#8]

/-- V-H7 at `FCUR = 6`. -/
def bufFull : Vector Byte 6 := #v[0x02#8, 0x01#8, 0x02#8, 0x03#8, 0x04#8, 0x05#8]

/-- S8, row 2. -/
theorem test_rxbyteSOut_S8 : after (exec (.rxbyteSOut) (atByte false 0#3 bufMotor)) hostView = some ⟨true, 0#3, bufMotor, false, []⟩ := by decide
/-- S8, row 1. -/
theorem test_rxbyteEXOut_S8 : after (exec (.rxbyteEXOut 0x78#8) (atByte false 0#3 bufMotor)) hostView = some ⟨false, 0#3, bufMotor, false, []⟩ := by decide
/-- V-H9, the end delimiter outside a frame. -/
theorem test_rxbyteEXOut_VH9 : after (exec (.rxbyteEXOut 0x0D#8) (atByte false 0#3 bufMotor)) hostView = some ⟨false, 0#3, bufMotor, false, []⟩ := by decide
/-- S9, the variant: capture restarts. -/
theorem test_rxbyteSIn_S9 : after (exec (.rxbyteSIn) (atByte true 3#3 bufFloat)) hostView = some ⟨true, 0#3, bufFloat, false, []⟩ := by decide
/-- V-H15, at `FCUR = 6`. -/
theorem test_rxbyteSIn_VH15 : after (exec (.rxbyteSIn) (atByte true 6#3 bufFull)) hostView = some ⟨true, 0#3, bufFull, false, []⟩ := by decide
/-- V-H7. -/
theorem test_rxbyteFull_VH7 : after (exec (.rxbyteFull 0x06#8) (atByte true 6#3 bufFull)) hostView = some ⟨false, 0#3, bufFull, false, []⟩ := by decide
/-- V-H7b, the end delimiter is not stored. -/
theorem test_rxbyteFull_VH7b : after (exec (.rxbyteFull 0x0D#8) (atByte true 6#3 bufFull)) hostView = some ⟨false, 0#3, bufFull, false, []⟩ := by decide
/-- S8, row 5. -/
theorem test_rxbyteEIn_S8 : after (exec (.rxbyteEIn) (atByte true 2#3 bufMotor)) hostView = some ⟨false, 0#3, #v[0x01#8, 0x32#8, 0x0D#8, 0x00#8, 0x00#8, 0x00#8], true, [(0x01#8, 0x00000032#32)]⟩ := by decide
/-- V-H3: the end delimiter lands in `FBUF[5]`. -/
theorem test_rxbyteEIn_VH3 : after (exec (.rxbyteEIn) (atByte true 5#3 bufFloat)) hostView = some ⟨false, 0#3, #v[0x02#8, 0x00#8, 0x00#8, 0x80#8, 0x3F#8, 0x0D#8], true, [(0x02#8, 0x3F800000#32)]⟩ := by decide
/-- S8, row 4. -/
theorem test_rxbyteXIn_S8 : after (exec (.rxbyteXIn 0x32#8) (atByte true 1#3 #v[0x01#8, 0x00#8, 0x00#8, 0x00#8, 0x00#8, 0x00#8])) hostView = some ⟨true, 2#3, bufMotor, false, []⟩ := by decide
/-- V-H14: a short frame never decodes stale bytes. -/
theorem test_rxbyte_VH14 : after (exec (.rxbyte 0x0D#8) (atByte true 1#3 bufFloat)) hostView = some ⟨false, 0#3, #v[0x02#8, 0x0D#8, 0x00#8, 0x80#8, 0x3F#8, 0x00#8], false, []⟩ := by decide
/-- V-H4: no device. -/
theorem test_rxbyte_VH4 : after (exec (.rxbyte 0x0D#8) (atByte true 2#3 #v[0x04#8, 0x32#8, 0x00#8, 0x00#8, 0x00#8, 0x00#8])) hostView = some ⟨false, 0#3, #v[0x04#8, 0x32#8, 0x0D#8, 0x00#8, 0x00#8, 0x00#8], false, []⟩ := by decide

/-! ## Witnesses: for every statement with hypotheses a concrete input that meets them -/

/-- The invariant as one test. -/
def invCheck (s : State) : Bool :=
  decide (s.port.irq = true → s.port.done = true) && (decide (s.port.irq = true → s.port.ien = true) &&
  (decide (s.port.armPend = true → s.port.done = false) && (decide (s.port.armPend = true → s.port.armKind ≠ .none) &&
  (decide (∀ r ∈ s.port.trace, r.kind ≠ .none) &&
  (decide (s.fg.rdcnt.toNat ≤ 4) && (decide (ResLegal s.fg.res) && (decide (s.fg.busy = false → s.fg.mstep = .idle) &&
  (decide (s.fg.busy = true → s.fg.cmd = none) && (decide (s.fg.mstep ≠ .idle → s.fg.rdok = false) &&
  (decide ((expectedBeforeReceive s.fg.mstep).isSome = true → s.fg.rdcnt = 0#3) &&
  (decide (s.fg.mstep = .recv → s.fg.rdcnt.toNat < payLen s.fg.dev) &&
  (decide (s.fg.mstep = .stopOk → s.fg.rdcnt.toNat = payLen s.fg.dev) &&
  (decide (s.fg.mstep = .stopOk → s.fg.evt = .masterByteReceivedNackSent) &&
  (decide (s.fg.rdok = true → s.fg.rdcnt = 1#3 ∨ s.fg.rdcnt = 4#3) &&
  (decide (s.fg.busy = true → s.port.ien = false) &&
  (decide (s.fg.busy = true → s.port.done = true ∨ s.port.armPend = true) &&
  (decide (s.slave.soff.toNat ≤ 4) &&
  (decide (s.host.fcur.toNat ≤ 6) && (decide (s.host.fin = false → s.host.fcur = 0#3) &&
  decide (s.host.fin = true → ∀ i : Fin 6, i.val < s.host.fcur.toNat →
    s.host.fbuf[i] ≠ startDelim ∧ s.host.fbuf[i] ≠ endDelim))))))))))))))))))))

theorem machineInv_of_check {s : State} (h : invCheck s = true) : MachineInv s := by
  simp only [invCheck, Bool.and_eq_true, decide_eq_true_eq] at h
  obtain ⟨a, b, c, d, e, f, g, i, j, k, l, m, n, o, p, q, r, t, u, v, w⟩ := h
  exact ⟨⟨a, b, c, d, e⟩, ⟨f, g, i, j, k, l, m, n, o, p⟩, ⟨q, r⟩, t, ⟨u, v, w⟩⟩

/-- A free node with a schedule. -/
def freeNode (agenda : List Move) : State := { State.reset with agenda := agenda }

/-- A free node with a word in `CMD` and a schedule. -/
def withCmd (w : Word) (agenda : List Move) : State :=
  { State.reset with fg := { State.reset.fg with cmd := some w }, agenda := agenda }

/-- A blocking wait: an armed START, `DONE = 0`. -/
def waiting (agenda : List Move) : State :=
  { State.reset with
    port := { State.reset.port with armKind := .start, armPend := true, trace := [⟨.start, 0x00#8, false, false⟩] }
    fg := { State.reset.fg with busy := true }
    agenda := agenda }

/-- The completions whose statuses decode to the events of a read. -/
def cs (l : List (Byte × Option Byte)) : List Completion := l.map (fun p => ⟨p.1, p.2⟩)

theorem test_witness_DecodeOfEncode :
    (Instr.rddev 0x7F#7 .temperatureSensor).wellFormed = true ∧ (Instr.reservedOp 0x0#4 0xFFFFFFF#28).wellFormed = true ∧
    (Instr.reservedOp 0x9#4 0#28).wellFormed = true ∧ (Instr.rxbyteXIn 0x32#8).wellFormed = true ∧
    (Instr.evtOther .generalCallAddressed).wellFormed = true := by decide

theorem test_witness_EncodeOfDecodedCommand : decodeCmd 0x4001007F#32 = .ok (.saddr false .read 0x7F#7) := by decide

theorem test_witness_LegalWordsDecode : LegalCommand 0x80000321#32 ∧ ¬ LegalCommand 0x80000420#32 := by decide

theorem test_witness_StatusDecodeByTable :
    (⟨defaultStatusTable⟩ : Config).wf ∧ ⟨24#5, .slaveByteSentNackReceived⟩ ∈ defaultStatusTable ∧
    (∀ r ∈ defaultStatusTable, r.code ≠ 0#5) ∧ (∀ r ∈ defaultStatusTable, r.code ≠ 31#5) ∧
    decodeStatus ⟨defaultStatusTable⟩ 13#5 = .unhandled ∧
    (atEvent 0xA7#8 0x00#8 0x00#8 0#3 false snap0).port.stat = 20#5 ++ 7#3 := by decide

theorem test_witness_StepRunsAcceptedCommand :
    (withCmd 0x80000120#32 []).port.irq = false ∧ (withCmd 0x80000120#32 []).fg.busy = false ∧
    (withCmd 0x80000120#32 []).fg.cmd = some 0x80000120#32 ∧ decodeCmd 0x80000120#32 = .ok (.rddev 0x20#7 .motor) ∧
    (withCmd 0x80000120#32 []).agenda = [] ∧ (withCmd 0x80000120#32 [.node]).agenda = [.node] := by decide

theorem test_witness_StepRunsDecodedEvent :
    (atEvent 0xA8#8 0x00#8 0x02#8 0#3 false snap0).port.irq = true ∧
    decodeStatus ⟨defaultStatusTable⟩ (statusCode 0xA8#8) = .slaveAddressedForRead := by decide

theorem test_witness_StepRunsDeliveredByte :
    (freeNode [.rxByte 0x7C#8]).agenda = [.rxByte 0x7C#8] ∧ (freeNode [.rxByte 0x7C#8]).host.fin = false ∧
    (atByte true 6#3 bufFull).host.fcur = 6#3 ∧ (atByte true 5#3 bufFloat).host.fin = true ∧
    (atByte true 5#3 bufFloat).host.fcur ≠ 6#3 := by decide

theorem test_witness_PrimitivesArm :
    primitiveArm (.saddr true .read 0x7F#7) = some (.txAddr, false, some 0xFF#8, true) ∧
    primitiveArm (.rbyte false .ack) = some (.rxData, true, none, false) := by decide

theorem test_witness_IllegalWordIsInvalid :
    (withCmd 0x88000120#32 []).port.irq = false ∧ (withCmd 0x88000120#32 []).fg.busy = false ∧
    (withCmd 0x88000120#32 []).fg.cmd = some 0x88000120#32 ∧ ¬ LegalCommand 0x88000120#32 ∧
    ¬ LegalCommand 0x14000000#32 := by decide

theorem test_witness_PrimitiveCompletes :
    AtCompletion (atStep .idle .motor 0#3 .unhandled 0x08#8 0x00#8) ∧
    (atStep .idle .motor 0#3 .unhandled 0x08#8 0x00#8).fg.mstep = .idle := by decide

theorem test_witness_BlockingWaitHolds :
    MachineInv (waiting [.phy 0x08#8 none]) ∧ (waiting [.phy 0x08#8 none]).fg.busy = true ∧
    (waiting [.phy 0x08#8 none]).port.done = false ∧
    (∀ st, (waiting [.phy 0x08#8 none]).agenda.head? ≠ some (.resetNode st)) ∧
    ∃ t, step (waiting [.phy 0x08#8 none]) = .next t :=
  ⟨machineInv_of_check (by decide), rfl, rfl, fun _ h => (by cases h), _, rfl⟩

theorem test_witness_BlockingWaitHolds_held :
    MachineInv (waiting []) ∧ (waiting []).fg.busy = true ∧ (waiting []).port.done = false ∧
    ∃ t, step (waiting []) = .next t := ⟨machineInv_of_check (by decide), rfl, rfl, _, rfl⟩

theorem test_witness_PrimitiveContract :
    MachineInv (freeNode [.writeCmd 0x40000020#32, .node, .phy 0x18#8 none, .node]) ∧
    ForegroundFree (freeNode [.writeCmd 0x40000020#32, .node, .phy 0x18#8 none, .node]) ∧
    decodeCmd 0x40000020#32 = .ok (.saddr false .write 0x20#7) ∧
    primitiveArm (.saddr false .write 0x20#7) = some (.txAddr, false, some 0x40#8, false) :=
  ⟨machineInv_of_check (by decide), by decide, by decide, by decide⟩

theorem test_witness_PrimitiveContract_deferred :
    MachineInv (freeNode [.writeCmd 0x78000000#32, .node, .phy 0x60#8 none]) ∧
    ForegroundFree (freeNode [.writeCmd 0x78000000#32, .node, .phy 0x60#8 none]) ∧
    decodeCmd 0x78000000#32 = .ok (.listen true) ∧ primitiveArm (.listen true) = some (.listen, true, none, true) :=
  ⟨machineInv_of_check (by decide), by decide, by decide, by decide⟩

theorem test_witness_PhyCompletionEffect :
    (freeNode [.phy 0x08#8 (some 0x11#8)]).agenda = [.phy 0x08#8 (some 0x11#8)] ∧
    (freeNode [.phy 0x08#8 (some 0x11#8)]).port.done = false ∧
    (atStep .idle .motor 0#3 .unhandled 0x08#8 0x00#8).port.done = true := by decide

theorem test_witness_OnlyCompletionRaisesInterrupt :
    after (step { freeNode [.phy 0x60#8 none] with port := { State.reset.port with ien := true } }) (fun t => t.port.irq) =
      some true ∧ State.reset.port.irq = false ∧
    (atEvent 0x60#8 0x00#8 0x00#8 0#3 false snap0).port.irq = true := by decide

theorem test_witness_InterruptBeforeForeground :
    MachineInv (atEvent 0xB8#8 0x80#8 0x02#8 3#3 true snap1) ∧ (atEvent 0xB8#8 0x80#8 0x02#8 3#3 true snap1).port.irq = true :=
  ⟨machineInv_of_check (by decide), rfl⟩

theorem test_witness_RddevAdvances :
    [atStep .start .motor 0#3 .unhandled 0x08#8 0x00#8, atStep .addrWrite .motor 0#3 .unhandled 0x18#8 0x40#8,
     atStep .devByte .motor 0#3 .unhandled 0x28#8 0x01#8, atStep .rstart .motor 0#3 .unhandled 0x10#8 0x01#8,
     atStep .addrRead .motor 0#3 .unhandled 0x40#8 0x41#8].all
      (fun s => decide (AtCompletion s ∧ expectedBeforeReceive s.fg.mstep = some s.busEvent)) = true := by decide

theorem test_witness_RddevStartFails :
    ForegroundFree (freeNode [.phy 0x38#8 none, .node]) ∧
    (∃ s1, exec (.rddev 0x20#7 .motor) (freeNode [.phy 0x38#8 none, .node]) = .next s1) ∧
    decodeStatus ⟨defaultStatusTable⟩ (statusCode 0x38#8) ≠ .startSent := ⟨by decide, ⟨_, rfl⟩, by decide⟩

theorem test_witness_RddevMismatchStops :
    MachineInv (atStep .addrRead .accelerometer 0#3 .unhandled 0x48#8 0x41#8) ∧
    AtCompletion (atStep .addrRead .accelerometer 0#3 .unhandled 0x48#8 0x41#8) ∧
    expectedBeforeReceive .addrRead = some .addressReadAckReceived ∧
    (atStep .addrRead .accelerometer 0#3 .unhandled 0x48#8 0x41#8).busEvent ≠ .addressReadAckReceived ∧
    MachineInv (atStep .recv .accelerometer 2#3 .unhandled 0x58#8 0x12#8) ∧
    AtCompletion (atStep .recv .accelerometer 2#3 .unhandled 0x58#8 0x12#8) ∧
    (atStep .recv .accelerometer 2#3 .unhandled 0x58#8 0x12#8).busEvent ≠ .masterByteReceivedAckSent ∧
    MachineInv (atStep .stopFail .accelerometer 0#3 .addressReadNackReceived 0xF8#8 0x41#8) ∧
    AtCompletion (atStep .stopFail .accelerometer 0#3 .addressReadNackReceived 0xF8#8 0x41#8) :=
  ⟨machineInv_of_check (by decide), by decide, rfl, by decide, machineInv_of_check (by decide), by decide, by decide,
    machineInv_of_check (by decide), by decide⟩

/-- The first and the last byte of a float, the only byte of Motor, and a mismatch. -/
theorem test_witness_RddevReceivesBytes :
    AtCompletion (atStep .addrRead .motor 0#3 .unhandled 0x40#8 0x41#8) ∧
    (atStep .addrRead .motor 0#3 .unhandled 0x40#8 0x41#8).busEvent = .addressReadAckReceived ∧
    MachineInv (atStep .recv .accelerometer 0#3 .unhandled 0x50#8 0x48#8) ∧
    (atStep .recv .accelerometer 0#3 .unhandled 0x50#8 0x48#8).busEvent = .masterByteReceivedAckSent ∧
    MachineInv (atStep .recv .accelerometer 3#3 .unhandled 0x58#8 0x3F#8) ∧
    (atStep .recv .accelerometer 3#3 .unhandled 0x58#8 0x3F#8).busEvent = .masterByteReceivedNackSent ∧
    MachineInv (atStep .recv .motor 0#3 .unhandled 0x58#8 0x32#8) ∧
    MachineInv (atStep .recv .motor 0#3 .unhandled 0x50#8 0x32#8) ∧
    AtCompletion (atStep .recv .motor 0#3 .unhandled 0x50#8 0x32#8) :=
  ⟨by decide, by decide, machineInv_of_check (by decide), by decide, machineInv_of_check (by decide), by decide,
    machineInv_of_check (by decide), machineInv_of_check (by decide), by decide⟩

theorem test_witness_RddevReturnsSuccess :
    MachineInv (atStep .stopOk .accelerometer 4#3 .masterByteReceivedNackSent 0xF8#8 0x3F#8) ∧
    AtCompletion (atStep .stopOk .accelerometer 4#3 .masterByteReceivedNackSent 0xF8#8 0x3F#8) :=
  ⟨machineInv_of_check (by decide), by decide⟩

/-- V-M1's answers. -/
def csMotor : List Completion :=
  cs [(0x08#8, none), (0x18#8, none), (0x28#8, none), (0x10#8, none), (0x40#8, none), (0x58#8, some 0x32#8), (0xF8#8, none)]

theorem test_witness_RddevReadsMotor :
    ForegroundFree (freeNode (answerScript csMotor)) ∧
    (∃ s1, exec (.rddev 0x20#7 .motor) (freeNode (answerScript csMotor)) = .next s1) ∧
    csMotor.map (fun c => c.event ⟨defaultStatusTable⟩) =
      [.startSent, .addressWriteAckReceived, .masterByteSentAck, .repeatedStartSent, .addressReadAckReceived,
       .masterByteReceivedNackSent, .unhandled] ∧
    (csMotor[5]?).bind (fun c => c.rx) = some 0x32#8 := ⟨by decide, ⟨_, rfl⟩, by decide, by decide⟩

/-- V-M2's answers. -/
def csFloat : List Completion :=
  cs [(0x08#8, none), (0x18#8, none), (0x28#8, none), (0x10#8, none), (0x40#8, none), (0x50#8, some 0x00#8),
      (0x50#8, some 0x00#8), (0x50#8, some 0x80#8), (0x58#8, some 0x3F#8), (0xF8#8, none)]

theorem test_witness_RddevReadsFloat :
    ForegroundFree (freeNode (answerScript csFloat)) ∧
    (∃ s1, exec (.rddev 0x20#7 .accelerometer) (freeNode (answerScript csFloat)) = .next s1) ∧
    csFloat.map (fun c => c.event ⟨defaultStatusTable⟩) =
      [.startSent, .addressWriteAckReceived, .masterByteSentAck, .repeatedStartSent, .addressReadAckReceived,
       .masterByteReceivedAckSent, .masterByteReceivedAckSent, .masterByteReceivedAckSent,
       .masterByteReceivedNackSent, .unhandled] ∧
    ((csFloat.drop 5).take 4).map (fun c => c.rx) =
      [some ((0x3F800000#32 : Word).extractLsb' 0 8), some ((0x3F800000#32 : Word).extractLsb' 8 8),
       some ((0x3F800000#32 : Word).extractLsb' 16 8), some ((0x3F800000#32 : Word).extractLsb' 24 8)] :=
  ⟨by decide, ⟨_, rfl⟩, by decide, by decide⟩

/-- V-M3's answers: the address is not acknowledged. -/
def csNack : List Completion := cs [(0x08#8, none), (0x20#8, none), (0xF8#8, none)]

theorem test_witness_RddevTrace :
    MachineInv (freeNode (answerScript csNack)) ∧ ForegroundFree (freeNode (answerScript csNack)) ∧
    ∃ s1 t, exec (.rddev 0x20#7 .temperatureSensor) (freeNode (answerScript csNack)) = .next s1 ∧
      runSteps (2 * csNack.length) s1 = .next t ∧ t.fg.busy = false :=
  ⟨machineInv_of_check (by decide), by decide, _, _, rfl, rfl, rfl⟩

theorem test_witness_RddevResultRegisters :
    MachineInv (freeNode (answerScript (cs [(0x38#8, none)]))) ∧
    ForegroundFree (freeNode (answerScript (cs [(0x38#8, none)]))) ∧
    ∃ s1 t, exec (.rddev 0x20#7 .motor) (freeNode (answerScript (cs [(0x38#8, none)]))) = .next s1 ∧
      runSteps 2 s1 = .next t ∧ t.fg.busy = false :=
  ⟨machineInv_of_check (by decide), by decide, _, _, rfl, rfl, rfl⟩

/-- V-M1's answers: an RDDEV that returns with `RDOK = 1`. -/
theorem test_witness_RddevResultRegisters_success :
    MachineInv (freeNode (answerScript csMotor)) ∧ ForegroundFree (freeNode (answerScript csMotor)) ∧
    ∃ s1 t, exec (.rddev 0x20#7 .motor) (freeNode (answerScript csMotor)) = .next s1 ∧
      runSteps (2 * csMotor.length) s1 = .next t ∧ t.fg.busy = false ∧ t.fg.rdok = true :=
  ⟨machineInv_of_check (by decide), by decide, _, _, rfl, rfl, rfl, rfl⟩

theorem test_witness_AddressedForReadSnapshots :
    (atEvent 0xA8#8 0x00#8 0x01#8 0#3 false snap0).slave.sdev = DeviceId.motor.code ∧
    (atEvent 0xA8#8 0x00#8 0x02#8 0#3 false snap0).slave.sdev = DeviceId.accelerometer.code ∧
    (atEvent 0xA8#8 0x00#8 0x03#8 0#3 false snap0).slave.sdev = DeviceId.temperatureSensor.code := by decide

theorem test_witness_ReadOfNoDeviceDoesNothing :
    (atEvent 0xA8#8 0x00#8 0x00#8 0#3 false snap0).slave.sdev ≠ 0x01#8 ∧
    (atEvent 0xA8#8 0x00#8 0x00#8 0#3 false snap0).slave.sdev ≠ 0x02#8 ∧
    (atEvent 0xA8#8 0x00#8 0x04#8 0#3 false snap0).slave.sdev ≠ 0x03#8 := by decide

/-- The last byte of a float is still sent; after it, and with no cursor, nothing is. -/
theorem test_witness_ByteSentTransmitsNext :
    (atEvent 0xB8#8 0x00#8 0x02#8 3#3 true snap1).slave.soff.toNat = 3 ∧ 3 < payLen .accelerometer ∧
    (atEvent 0xB8#8 0x00#8 0x02#8 3#3 true snap1).slave.sdev = DeviceId.accelerometer.code ∧
    payLen .accelerometer ≤ (atEvent 0xB8#8 0x00#8 0x02#8 4#3 true snap1).slave.soff.toNat ∧
    payLen .motor ≤ (atEvent 0xB8#8 0x00#8 0x01#8 1#3 true snap1).slave.soff.toNat ∧
    (atEvent 0xB8#8 0x00#8 0x02#8 0#3 false snap1).slave.svalid = false := by decide

theorem test_witness_IgnoredEventsDoNothing :
    ∃ i : Instr, i = .evtSlaveByteSentNackReceived ∨ i = .evtUnhandled ∨ (∃ e, i = .evtOther e) :=
  ⟨.evtOther .arbitrationLost, .inr (.inr ⟨_, rfl⟩)⟩

theorem test_witness_HandlerActsOnce :
    ∃ t, handlerStep (atEvent 0xA8#8 0x00#8 0x03#8 0#3 false snap0) = .next t := ⟨_, rfl⟩

theorem test_witness_SlaveRegistersHaveOneWriter :
    ∃ t, step (atEvent 0x80#8 0x02#8 0x00#8 0#3 false snap0) = .next t ∧
      t.slave ≠ (atEvent 0x80#8 0x02#8 0x00#8 0#3 false snap0).slave := ⟨_, rfl, by decide⟩

/-- Both clauses' foreground steps: one that accepts, one that stores a received byte. -/
theorem test_witness_SlaveRegistersHaveOneWriter_foreground :
    (∃ t, foregroundStep (withCmd 0x80000120#32 []) = .next t) ∧
    ∃ t, foregroundStep (atStep .recv .accelerometer 3#3 .unhandled 0x58#8 0x3F#8) = .next t := ⟨⟨_, rfl⟩, ⟨_, rfl⟩⟩

theorem test_witness_ForegroundLeavesTheRest : ∃ t, foregroundStep (withCmd 0x80000120#32 []) = .next t := ⟨_, rfl⟩

/-- S6's events. -/
def csSlave : List Completion :=
  cs [(0x60#8, none), (0x80#8, some 0x02#8), (0xA8#8, none), (0xB8#8, none), (0xB8#8, none), (0xB8#8, none), (0xA0#8, none)]

theorem test_witness_SlaveReadSequence :
    csSlave.map (fun c => c.event ⟨defaultStatusTable⟩) =
      [.slaveAddressedForWrite, .slaveByteReceivedAckSent, .slaveAddressedForRead, .slaveByteSentAckReceived,
       .slaveByteSentAckReceived, .slaveByteSentAckReceived, .slaveStopOrRepeatedStartReceived] ∧
    (csSlave[1]?).bind (fun c => c.rx) = some 0x02#8 ∧
    ({ freeNode (answerScript csSlave) with port := { State.reset.port with ien := true } } : State).port.ien = true ∧
    (freeNode (answerScript csSlave)).port.irq = false ∧ (freeNode (answerScript csSlave)).port.done = false := by decide

theorem test_witness_CursorOffsetZeroOnlyByNewDevice :
    ∃ t, step (atEvent 0x80#8 0x03#8 0x02#8 2#3 true snap1) = .next t ∧ t.slave.svalid = true ∧ t.slave.soff = 0#3 ∧
      (atEvent 0x80#8 0x03#8 0x02#8 2#3 true snap1).slave.soff ≠ 0#3 := ⟨_, rfl, rfl, rfl, by decide⟩

theorem test_witness_RxOutsideFrame : (atByte false 0#3 bufMotor).host.fin = false ∧ (0x0D#8 : Byte) ≠ 0x7C#8 := by decide

theorem test_witness_RxRestartAndFull :
    (atByte true 6#3 bufFull).host.fin = true ∧ (atByte true 6#3 bufFull).host.fcur = 6#3 ∧ (0x0D#8 : Byte) ≠ 0x7C#8 := by
  decide

theorem test_witness_RxStoresByte :
    (atByte true 5#3 bufFloat).host.fin = true ∧ (atByte true 5#3 bufFloat).host.fcur.toNat ≤ 5 ∧
    (atByte true 0#3 bufFloat).host.fcur.toNat ≤ 5 ∧ (0x32#8 : Byte) ≠ 0x7C#8 ∧ (0x32#8 : Byte) ≠ 0x0D#8 := by decide

/-- A valid Motor frame, a valid float frame, an empty body and a full body of no device. -/
theorem test_witness_RxFinalizes :
    ((atByte true 2#3 bufMotor).host.fcur.toNat = 2 ∧ bufMotor[0] = 0x01#8) ∧
    ((atByte true 5#3 bufFloat).host.fcur.toNat = 5 ∧ bufFloat[0] = 0x02#8) ∧
    (atByte true 0#3 bufMotor).host.fcur.toNat = 0 ∧ ¬ ((0 : Nat) = 2 ∧ bufMotor[0] = 0x01#8) ∧
    ¬ ((5 : Nat) = 5 ∧ (bufMotor[0] = 0x02#8 ∨ bufMotor[0] = 0x03#8)) := by decide

theorem test_witness_RxByteNeverFails : MachineInv (atByte true 6#3 bufFull) := machineInv_of_check (by decide)

theorem test_witness_StartDelimiterNeverStored :
    ∃ t, exec (.rxbyte 0x0D#8) (atByte true 1#3 #v[0x01#8, 0x7C#8, 0x7C#8, 0x00#8, 0x00#8, 0x00#8]) = .next t ∧
      t.host.fbuf[(2 : Fin 6)] = 0x7C#8 := ⟨_, rfl, rfl⟩

theorem test_witness_CleanFrameDelivered :
    (freeNode (byteScript (frameEncode .temperatureSensor 0x7FC00001#32))).host.fin = false ∧
    NoDelimiter (payloadBytes .temperatureSensor 0x7FC00001#32) ∧ NoDelimiter (payloadBytes .motor 0x32#32) := by decide

/-- V-H11 and V-H10. -/
theorem test_witness_InBandDelimiterLosesFrame :
    ¬ NoDelimiter (payloadBytes .accelerometer 0x3E7C0000#32) ∧ ¬ NoDelimiter (payloadBytes .motor 0x0D#32) ∧
    ∃ t, runSteps 4 (freeNode (byteScript (frameEncode .motor 0x0D#32))) = .next t :=
  ⟨by decide, by decide, _, rfl⟩

theorem test_witness_FloatRoundTrip :
    ({ State.reset.fg with rdbuf := #v[0x48#8, 0xE1#8, 0x7A#8, 0x3F#8] } : Foreground).rdbuf =
      snapshotBytes ⟨0x00#8, 0x3F7AE148#32, 0x00000000#32⟩ snap0 .accelerometer ∧
    NoDelimiter (#v[0x48#8, 0xE1#8, 0x7A#8, 0x3F#8] : Vector Byte 4).toList := by decide

theorem test_witness_StepKeepsInv :
    MachineInv (atStep .recv .accelerometer 3#3 .unhandled 0x58#8 0x3F#8) ∧
    (∃ t, step (atStep .recv .accelerometer 3#3 .unhandled 0x58#8 0x3F#8) = .next t) ∧
    MachineInv (atEvent 0xB8#8 0x80#8 0x02#8 4#3 true snap1) ∧ MachineInv (atByte true 6#3 bufFull) :=
  ⟨machineInv_of_check (by decide), ⟨_, rfl⟩, machineInv_of_check (by decide), machineInv_of_check (by decide)⟩

theorem test_witness_MachineNeverStops : MachineInv (waiting [.rxByte 0x7C#8]) := machineInv_of_check (by decide)

theorem test_witness_ResetsAreIndependent :
    (freeNode [.resetNode 0xFF#8]).agenda = [.resetNode 0xFF#8] ∧
    (freeNode [.resetHost bufFull]).agenda = [.resetHost bufFull] := by decide

theorem test_witness_HistoriesGrow :
    ∃ t, step (waiting [.rxByte 0x7C#8]) = .next t ∧
      (∀ st, (waiting [.rxByte 0x7C#8]).agenda.head? ≠ some (.resetNode st)) ∧
      ∀ fb, (waiting [.rxByte 0x7C#8]).agenda.head? ≠ some (.resetHost fb) :=
  ⟨_, rfl, fun _ h => (by cases h), fun _ h => (by cases h)⟩

end Sys2Proof.Tests
end

section
/-! The statements about the state: what an arm action, a foreground step, a handler invocation and an RXBYTE can do,
each said once as an inversion lemma, and from these the frames, the growth of the histories and the invariant. -/

namespace Sys2Proof.Machine

/-! ## Arm actions as equations on the whole state -/

theorem arm_loadData_eq (s : State) (k : ArmKind) (a e : Bool) (load : Option Byte) :
    (s.loadData load).arm k a e = { s with port := armedPort s.port k (load.getD s.port.data) a e } := by
  cases load <;> rfl

theorem primitive_eq (s : State) (k : ArmKind) (a : Bool) (load : Option Byte) (d : Bool) :
    s.primitive k a load d =
      { s with
        port := armedPort s.port k (load.getD s.port.data) a d
        fg := { s.fg with
          res := if d then resDeferred else s.fg.res
          busy := if d then s.fg.busy else true } } := by
  unfold State.primitive
  rw [arm_loadData_eq]
  cases d <;> rfl

theorem handlerArm_eq (s : State) (k : ArmKind) (a : Bool) (load : Option Byte) :
    s.handlerArm k a load = { s with port := armedPort s.port k (load.getD s.port.data) a true } :=
  arm_loadData_eq s k a true load

theorem mdpArm_eq (m : MStep) (k : ArmKind) (a : Bool) (load : Option Byte) (s : State) :
    mdpArm m k a load s =
      { s with
        port := armedPort s.port k (load.getD s.port.data) a false
        fg := { s.fg with mstep := m } } := by
  unfold mdpArm
  rw [arm_loadData_eq]

/-- A primitive command is executed as what it arms (40_bus_engine.md R122, R126 to R132). -/
theorem exec_of_primitiveArm {i : Instr} {k : ArmKind} {a : Bool} {load : Option Byte} {d : Bool}
    (h : primitiveArm i = some (k, a, load, d)) (s : State) : exec i s = .next (s.primitive k a load d) := by
  unfold primitiveArm at h
  split at h <;> cases h <;> rfl

/-- Settles O10: every primitive is executed as `State.primitive` of what it arms. -/
theorem primitivesArm : Obligations.PrimitivesArm := by
  intro i k a load d s h
  rw [exec_of_primitiveArm h, primitive_eq]
  rfl

/-! ## What a step does to the port -/

/-- The port after at most one arm action, of a kind that is not the reserved one (10_state.md R29). -/
inductive ArmsAtMostOnce (p : Port) : Port → Prop
  | none : ArmsAtMostOnce p p
  | one (k : ArmKind) (data : Byte) (a e : Bool) (hk : k ≠ .none) : ArmsAtMostOnce p (armedPort p k data a e)

theorem ArmsAtMostOnce.stat_eq {p q : Port} (h : ArmsAtMostOnce p q) : q.stat = p.stat := by cases h <;> rfl

theorem ArmsAtMostOnce.irq_eq {p q : Port} (h : ArmsAtMostOnce p q) : q.irq = p.irq := by cases h <;> rfl

/-! ## What the completion of a sub-operation can do -/

/-- The state with the byte in `DATA` stored at `RDBUF[RDCNT]` and counted (41_master_protocol.md R152). -/
def State.storeReceived (s : State) (hi : s.fg.rdcnt.toNat < 4) : State :=
  { s with fg := { s.fg with rdbuf := s.fg.rdbuf.set s.fg.rdcnt.toNat s.port.data hi, rdcnt := s.fg.rdcnt + 1#3 } }

/-- Everything the completion at `MSTEP` with event `e` can answer (41_master_protocol.md R152 to R157). -/
inductive MdpMove (e : BusEvent) (s : State) : State → Prop
  | finish (hm : s.fg.mstep = .idle) : MdpMove e s (s.finishCommand e)
  | abort (hm : s.fg.mstep = .start) (he : e ≠ .startSent) : MdpMove e s (mdpAbort e s)
  | advance (m : MStep) (k : ArmKind) (load : Option Byte) (he : expectedBeforeReceive s.fg.mstep = some e)
      (hm : (expectedBeforeReceive m).isSome = true) (hk : k ≠ .none) : MdpMove e s (mdpArm m k false load s)
  | receiveFirst (hm : s.fg.mstep = .addrRead) (he : e = .addressReadAckReceived) : MdpMove e s (mdpArmReceive 0 s)
  | receiveNext (hm : s.fg.mstep = .recv) (hi : s.fg.rdcnt.toNat < 4) (he : e = mdpWant s.fg.dev s.fg.rdcnt.toNat)
      (hl : s.fg.rdcnt.toNat + 1 ≠ payLen s.fg.dev) :
      MdpMove e s (mdpArmReceive (s.fg.rdcnt.toNat + 1) (s.storeReceived hi))
  | receiveLast (hm : s.fg.mstep = .recv) (hi : s.fg.rdcnt.toNat < 4) (he : e = mdpWant s.fg.dev s.fg.rdcnt.toNat)
      (hl : s.fg.rdcnt.toNat + 1 = payLen s.fg.dev) : MdpMove e s (mdpStop .stopOk e (s.storeReceived hi))
  | fail (hm : s.fg.mstep ∈ [MStep.addrWrite, .devByte, .rstart, .addrRead, .recv]) : MdpMove e s (mdpFail e s)
  | returnOk (hm : s.fg.mstep = .stopOk) : MdpMove e s (mdpReturn true s)
  | returnFail (hm : s.fg.mstep = .stopFail) : MdpMove e s (mdpReturn false s)

theorem mdpByte_move {e : BusEvent} {s t : State} (hm : s.fg.mstep = .recv) (h : mdpByte e s = .next t) :
    MdpMove e s t := by
  rcases mdpByte_cases e s with ⟨_, hb⟩ | ⟨_, _, hb⟩ | ⟨hi, he, ⟨hl, hb⟩ | ⟨hl, hb⟩⟩ <;> rw [hb] at h <;> cases h
  · exact .fail (by simp [hm])
  · exact .receiveLast hm hi he hl
  · exact .receiveNext hm hi he hl

/-- A sub-operation before the last address: on the expected event the next one is armed, otherwise RDDEV fails. -/
theorem advance_or_fail_move {e want : BusEvent} {s t : State} {m : MStep} {k : ArmKind} {load : Option Byte}
    (hw : expectedBeforeReceive s.fg.mstep = some want)
    (hf : s.fg.mstep ∈ [MStep.addrWrite, .devByte, .rstart, .addrRead, .recv])
    (hm : (expectedBeforeReceive m).isSome = true) (hk : k ≠ .none)
    (h : (if e = want then .next (mdpArm m k false load s) else .next (mdpFail e s) : Result) = .next t) :
    MdpMove e s t := by
  split at h <;> cases h
  case isTrue he => exact .advance m k load (he ▸ hw) hm hk
  case isFalse => exact .fail hf

theorem mdpComplete_move {e : BusEvent} {s t : State} (h : mdpComplete e s = .next t) : MdpMove e s t := by
  unfold mdpComplete at h
  split at h
  case h_1 hm => cases h; exact .finish hm
  case h_2 hm =>
    split at h <;> cases h
    case isTrue he => exact .advance _ _ _ (by simp [hm, he, expectedBeforeReceive]) rfl (by decide)
    case isFalse he => exact .abort hm he
  case h_3 hm => exact advance_or_fail_move (by rw [hm]; rfl) (by simp [hm]) rfl (by decide) h
  case h_4 hm => exact advance_or_fail_move (by rw [hm]; rfl) (by simp [hm]) rfl (by decide) h
  case h_5 hm => exact advance_or_fail_move (by rw [hm]; rfl) (by simp [hm]) rfl (by decide) h
  case h_6 hm =>
    split at h <;> cases h
    case isTrue he => exact .receiveFirst hm he
    case isFalse => exact .fail (by simp [hm])
  case h_7 hm => exact mdpByte_move hm h
  case h_8 hm => cases h; exact .returnOk hm
  case h_9 hm => cases h; exact .returnFail hm

/-! ## What a foreground step can do -/

/-- Everything a foreground step can answer (40_bus_engine.md R122, R137). -/
inductive ForegroundMove (s : State) : State → Prop
  | stay (hw : (s.fg.busy = true ∧ s.port.done = false) ∨ (s.fg.busy = false ∧ s.fg.cmd = none)) : ForegroundMove s s
  | complete {t : State} (hb : s.fg.busy = true) (hd : s.port.done = true) (hm : MdpMove s.busEvent s t) :
      ForegroundMove s t
  | reject (w : Word) (err : DecodeError) (hb : s.fg.busy = false) (hc : s.fg.cmd = some w)
      (hd : decodeCmd w = .error err) : ForegroundMove s (s.takeCommand.rejectCommand w)
  | reserved (w : Word) (op : BitVec 4) (rest : BitVec 28) (hb : s.fg.busy = false) (hc : s.fg.cmd = some w)
      (hd : decodeCmd w = .ok (.reservedOp op rest)) : ForegroundMove s (s.takeCommand.setRes resInvalid)
  | primitive (w : Word) (i : Instr) (k : ArmKind) (a : Bool) (load : Option Byte) (d : Bool) (hb : s.fg.busy = false)
      (hc : s.fg.cmd = some w) (hd : decodeCmd w = .ok i) (hp : primitiveArm i = some (k, a, load, d))
      (hk : k ≠ .none) : ForegroundMove s (s.takeCommand.primitive k a load d)
  | rddev (w : Word) (peer : BitVec 7) (dev : DeviceId) (hb : s.fg.busy = false) (hc : s.fg.cmd = some w)
      (hd : decodeCmd w = .ok (.rddev peer dev)) :
      ForegroundMove s
        (mdpArm .start .start false none
          { s with
            fg := { s.fg with
              cmd := none, busy := true, rdok := false, rdcnt := 0#3, peer := peer, dev := dev } })

theorem acceptCommand_move {s t : State} {w : Word} (hb : s.fg.busy = false) (hc : s.fg.cmd = some w)
    (h : acceptCommand w s.takeCommand = .next t) : ForegroundMove s t := by
  unfold acceptCommand at h
  split at h
  case h_1 i hd =>
    rcases decodeCmd_cases hd with ⟨op, rest, rfl, _⟩ | ⟨k, a, load, d, hp, hk⟩ | ⟨peer, dev, rfl⟩
    · cases h; exact .reserved w op rest hb hc hd
    · rw [exec_of_primitiveArm hp] at h
      cases h; exact .primitive w i k a load d hb hc hd hp hk
    · cases h; exact .rddev w peer dev hb hc hd
  case h_2 err hd => cases h; exact .reject w err hb hc hd

theorem foregroundStep_move {s t : State} (h : foregroundStep s = .next t) : ForegroundMove s t := by
  unfold foregroundStep at h
  split at h
  case isTrue hb =>
    split at h
    case isTrue hd => exact .complete hb hd (mdpComplete_move h)
    case isFalse hd => cases h; exact .stay (.inl ⟨hb, by simpa using hd⟩)
  case isFalse hb =>
    have hfree : s.fg.busy = false := by simpa using hb
    split at h
    case h_1 w hc => exact acceptCommand_move hfree hc h
    case h_2 hc => cases h; exact .stay (.inr ⟨hfree, hc⟩)

theorem MdpMove.frame {e : BusEvent} {s t : State} (h : MdpMove e s t) :
    t.cfg = s.cfg ∧ t.slave = s.slave ∧ t.host = s.host ∧ t.periph = s.periph ∧ t.agenda = s.agenda := by
  cases h with
  | finish | abort | returnOk | returnFail => exact ⟨rfl, rfl, rfl, rfl, rfl⟩
  | advance => simp [mdpArm_eq]
  | receiveFirst | receiveNext => simp [mdpArmReceive, mdpArm_eq, State.storeReceived]
  | receiveLast | fail => simp [mdpFail, mdpStop, mdpArm_eq, State.storeReceived]

theorem ForegroundMove.frame {s t : State} (h : ForegroundMove s t) :
    t.cfg = s.cfg ∧ t.slave = s.slave ∧ t.host = s.host ∧ t.periph = s.periph ∧ t.agenda = s.agenda := by
  cases h with
  | complete _ _ hm => exact hm.frame
  | stay | reject | reserved | rddev => exact ⟨rfl, rfl, rfl, rfl, rfl⟩
  | primitive => simp

theorem MdpMove.arms {e : BusEvent} {s t : State} (h : MdpMove e s t) : ArmsAtMostOnce s.port t.port := by
  cases h with
  | finish | abort | returnOk | returnFail => exact .none
  | advance m k load _ _ hk => rw [mdpArm_eq]; exact .one _ _ _ _ hk
  | receiveFirst | receiveNext => rw [mdpArmReceive, mdpArm_eq]; exact .one _ _ _ _ (by decide)
  | receiveLast => rw [mdpStop, mdpArm_eq]; exact .one _ _ _ _ (by decide)
  | fail => rw [mdpFail, mdpStop, mdpArm_eq]; exact .one _ _ _ _ (by decide)

theorem ForegroundMove.arms {s t : State} (h : ForegroundMove s t) : ArmsAtMostOnce s.port t.port := by
  cases h with
  | complete _ _ hm => exact hm.arms
  | stay | reject | reserved => exact .none
  | primitive _ _ _ _ _ _ _ _ _ _ hk => rw [primitive_eq]; exact .one _ _ _ _ hk
  | rddev => rw [mdpArm_eq]; exact .one _ _ _ _ (by decide)

/-- Settles O38: a foreground step changes only the port and the foreground registers, and the port by an arm action. -/
theorem foregroundLeavesTheRest : Obligations.ForegroundLeavesTheRest := by
  intro s t h
  have hm := foregroundStep_move h
  obtain ⟨hcfg, hslave, hhost, hperiph, hagenda⟩ := hm.frame
  exact ⟨hslave, hhost, hcfg, hperiph, hagenda, hm.arms.stat_eq, hm.arms.irq_eq⟩

/-! ## What a handler invocation can do -/

/-- Everything a handler invocation can answer (42_slave_protocol.md R172 to R181). -/
inductive HandlerMove (s : State) : State → Prop
  | ignored (he : s.busEvent ∉ [BusEvent.slaveAddressedForWrite, .slaveByteReceivedAckSent, .slaveAddressedForRead,
      .slaveByteSentAckReceived, .slaveStopOrRepeatedStartReceived]) : HandlerMove s s.enterHandler
  | noDevice (he : s.busEvent = .slaveAddressedForRead) (hd : DeviceId.ofByte s.slave.sdev = none) :
      HandlerMove s s.enterHandler
  | noMoreBytes (he : s.busEvent = .slaveByteSentAckReceived) (hm : s.slave.moreBytes = false) :
      HandlerMove s s.enterHandler
  | armReceive (he : s.busEvent = .slaveAddressedForWrite) :
      HandlerMove s (s.enterHandler.handlerArm .rxData true none)
  | newDevice (he : s.busEvent = .slaveByteReceivedAckSent) :
      HandlerMove s { s.enterHandler with slave := { s.slave with sdev := s.port.data, soff := 0#3 } }
  | snapshot (dev : DeviceId) (he : s.busEvent = .slaveAddressedForRead)
      (hd : DeviceId.ofByte s.slave.sdev = some dev) :
      HandlerMove s
        ({ s.enterHandler with
            slave := { (takeSnapshot dev s).slave with soff := 1#3, svalid := true } }.handlerArm
          .txData false (some (snapshotBytes s.periph s.slave.snap dev)[0]))
  | nextByte (b : Byte) (he : s.busEvent = .slaveByteSentAckReceived) (hm : s.slave.moreBytes = true)
      (hb : readBuf s.slave.snap s.slave.soff.toNat = some b) :
      HandlerMove s
        ({ s.enterHandler with slave := { s.slave with soff := s.slave.soff + 1#3 } }.handlerArm .txData false (some b))
  | relisten (he : s.busEvent = .slaveStopOrRepeatedStartReceived) :
      HandlerMove s
        ({ s.enterHandler with slave := { s.slave with svalid := false, soff := 0#3 } }.handlerArm .listen true none)

theorem execEvtSlaveAddressedForRead_move {s t : State} (he : s.busEvent = .slaveAddressedForRead)
    (h : execEvtSlaveAddressedForRead s = .next t) : HandlerMove s t := by
  unfold execEvtSlaveAddressedForRead at h
  simp only at h
  split at h <;> cases h
  case h_1 hd => exact .noDevice he hd
  case h_2 dev hd => exact .snapshot dev he hd

theorem execEvtSlaveByteSentAckReceived_move {s t : State} (he : s.busEvent = .slaveByteSentAckReceived)
    (h : execEvtSlaveByteSentAckReceived s = .next t) : HandlerMove s t := by
  unfold execEvtSlaveByteSentAckReceived at h
  simp only at h
  split at h
  case isTrue hm =>
    split at h <;> cases h
    case h_2 b hb => exact .nextByte b he hm hb
  case isFalse hm => cases h; exact .noMoreBytes he (by simpa using hm)

theorem handlerStep_move {s t : State} (h : handlerStep s = .next t) : HandlerMove s t := by
  unfold handlerStep at h
  cases he : s.busEvent <;> rw [he] at h
  case slaveAddressedForWrite => cases h; exact .armReceive he
  case slaveByteReceivedAckSent => cases h; exact .newDevice he
  case slaveAddressedForRead => exact execEvtSlaveAddressedForRead_move he h
  case slaveByteSentAckReceived => exact execEvtSlaveByteSentAckReceived_move he h
  case slaveStopOrRepeatedStartReceived => cases h; exact .relisten he
  all_goals cases h; exact .ignored (by simp [he])

theorem HandlerMove.arms {s t : State} (h : HandlerMove s t) : ArmsAtMostOnce s.port.entryFlags t.port := by
  cases h with
  | ignored | noDevice | noMoreBytes | newDevice => exact .none
  | armReceive | snapshot | nextByte | relisten => rw [handlerArm_eq]; exact .one _ _ _ _ (by decide)

/-- While bytes of the value remain, the offset is below the payload (42_slave_protocol.md R176). -/
theorem soff_lt_of_moreBytes {r : SlaveRegs} (h : r.moreBytes = true) : r.soff.toNat < 4 := by
  unfold SlaveRegs.moreBytes at h
  cases hd : DeviceId.ofByte r.sdev with
  | none => simp [hd] at h
  | some dev =>
    have hlt : r.soff.toNat < payLen dev := by simp [hd] at h; exact h.2
    exact hlt.trans_le (payLen_le dev)

/-- Advancing one of the 3-bit counters does not wrap below 7. -/
theorem toNat_add_one_of_lt {x : BitVec 3} (h : x.toNat < 7) : (x + 1#3).toNat = x.toNat + 1 :=
  BitVec.toNat_add_of_lt (y := 1#3) (Nat.succ_lt_succ h)

theorem HandlerMove.soff_le {s t : State} (h : HandlerMove s t) (hs : s.slave.soff.toNat ≤ 4) :
    t.slave.soff.toNat ≤ 4 := by
  cases h with
  | ignored | noDevice | noMoreBytes | armReceive => simpa using hs
  | newDevice | relisten | snapshot => simp
  | nextByte _ _ hm =>
    have hlt := soff_lt_of_moreBytes hm
    have hadd := toNat_add_one_of_lt (hlt.trans (by decide))
    simp only [handlerArm_slave, hadd]
    omega

/-- A cursor at offset 0 that the handler made comes from a new device byte: a snapshot leaves the offset at 1, and the
next byte advances it without a wrap (42_slave_protocol.md R173). -/
theorem HandlerMove.cursor_zero {s t : State} (h : HandlerMove s t) (hv : t.slave.svalid = true)
    (h0 : t.slave.soff = 0#3) (hn : s.slave.svalid = true → s.slave.soff ≠ 0#3) :
    s.busEvent = .slaveByteReceivedAckSent ∧ s.slave.svalid = true ∧ t.slave.sdev = s.port.data := by
  cases h with
  | ignored | noDevice | noMoreBytes | armReceive => exact absurd (by simpa using h0) (hn (by simpa using hv))
  | newDevice he => exact ⟨he, hv, rfl⟩
  | snapshot => simp at h0
  | nextByte _ _ hm =>
    have hadd := toNat_add_one_of_lt ((soff_lt_of_moreBytes hm).trans (by decide))
    have hwrap : s.slave.soff + 1#3 = 0#3 := by simpa using h0
    simp [hwrap] at hadd
  | relisten => simp at hv

/-! ## One step as the next entry of the schedule -/

/-- One step is the schedule's next entry, the node's own step where there is none (20_memory.md R71; log 2). -/
theorem step_eq_performMove (s : State) :
    step s = performMove (s.agenda.headD .node) { s with agenda := s.agenda.tail } := by
  obtain ⟨cfg, port, fg, slave, host, periph, agenda⟩ := s
  cases agenda <;> rfl

/-- The node's own step is a handler invocation when an interrupt is pending, otherwise a foreground step. -/
theorem nodeStep_cases {s t : State} (h : nodeStep s = .next t) :
    (s.port.irq = true ∧ handlerStep s = .next t) ∨ (s.port.irq = false ∧ foregroundStep s = .next t) := by
  unfold nodeStep at h
  split at h
  case isTrue hi => exact .inl ⟨hi, h⟩
  case isFalse hi => exact .inr ⟨by simpa using hi, h⟩

theorem nodeStep_frame {s t : State} (h : nodeStep s = .next t) : t.cfg = s.cfg ∧ t.host = s.host := by
  rcases nodeStep_cases h with ⟨_, h⟩ | ⟨_, h⟩
  · obtain ⟨hcfg, _, hhost, _, _⟩ := handlerStep_next h
    exact ⟨hcfg, hhost⟩
  · obtain ⟨hcfg, _, hhost, _, _⟩ := (foregroundStep_move h).frame
    exact ⟨hcfg, hhost⟩

/-! ## The agents' moves -/

/-- The case of RXBYTE that the decoder's state selects is the whole RXBYTE (43_frame_decoder.md R197). -/
theorem hostStep_eq (b : Byte) (s : State) : hostStep b s = s.withHost (s.host.rxByte b) := by
  have hse : ¬ endDelim = startDelim := by decide
  unfold hostStep
  rcases rxByte_cases s.host b with ⟨hf, rfl, h⟩ | ⟨hf, hs, h⟩ | ⟨hf, rfl, h⟩ | ⟨hf, hs, h6, h⟩ | ⟨hf, rfl, h6, h⟩ |
    ⟨hf, hs, he, h6, h⟩
  · simp [HostDecoder.context, hf, decodeByte, classify, exec, execRxbyteSOut, h]
  · by_cases he : b = endDelim <;>
      simp [HostDecoder.context, hf, decodeByte, classify, exec, execRxbyteEXOut, ← h, hs, he, hse]
  · by_cases h6 : s.host.fcur = 6#3 <;>
      simp [HostDecoder.context, hf, decodeByte, classify, exec, execRxbyteSIn, h, h6]
  · by_cases he : b = endDelim <;>
      simp [HostDecoder.context, hf, decodeByte, classify, exec, execRxbyteFull, ← h, h6, hs, he, hse]
  · simp [HostDecoder.context, hf, decodeByte, classify, exec, execRxbyteEIn, h, h6, hse]
  · simp [HostDecoder.context, hf, decodeByte, classify, exec, execRxbyteXIn, h, h6, hs, he]

theorem hostStep_next {b : Byte} {s t : State} (h : hostStep b s = .next t) :
    ∃ d, s.host.rxByte b = some d ∧ t = { s with host := d } :=
  withHost_next (hostStep_eq b s ▸ h)

/-- A completion is taken while `DONE = 0`, otherwise nothing happens (10_state.md R30; log 2). -/
theorem phyMove_eq (s : State) (st : Byte) (rx : Option Byte) :
    s.phyMove st rx = bif s.port.done then s else s.phyComplete st rx := by
  unfold State.phyMove
  cases s.port.done <;> rfl

@[simp] theorem phyMove_cfg (s : State) (st : Byte) (rx : Option Byte) : (s.phyMove st rx).cfg = s.cfg := by
  cases hd : s.port.done <;> simp [phyMove_eq, hd]

@[simp] theorem phyMove_slave (s : State) (st : Byte) (rx : Option Byte) : (s.phyMove st rx).slave = s.slave := by
  cases hd : s.port.done <;> simp [phyMove_eq, hd]

@[simp] theorem phyMove_host (s : State) (st : Byte) (rx : Option Byte) : (s.phyMove st rx).host = s.host := by
  cases hd : s.port.done <;> simp [phyMove_eq, hd]

@[simp] theorem phyMove_trace (s : State) (st : Byte) (rx : Option Byte) :
    (s.phyMove st rx).port.trace = s.port.trace := by
  cases hd : s.port.done <;> simp [phyMove_eq, hd]

/-- A write to `CMD` is taken while no command is in progress or written (10_state.md R33). -/
theorem writeCmd_eq (s : State) (w : Word) :
    s.writeCmd w =
      { s with fg := { s.fg with cmd := if s.fg.busy || s.fg.cmd.isSome then s.fg.cmd else some w } } := by
  unfold State.writeCmd
  split <;> rfl

/-- Settles O16: `PhyComplete` is taken exactly when `DONE = 0`. -/
theorem phyCompletionEffect : Obligations.PhyCompletionEffect := by
  intro s st rx rest ha
  rw [step_eq_performMove, ha]
  simp only [List.headD_cons, List.tail_cons, performMove, phyMove_eq]
  refine ⟨fun hd => ?_, fun hd => ?_⟩
  · cases rx <;> cases hi : s.port.ien <;> simp [hd, State.phyComplete, Port.completionFlags, hi]
  · simp [hd]

/-! ## The slave's cursor -/

/-- Only the node's own step and its reset write the slave registers (10_state.md R50). -/
theorem performMove_slave {m : Move} {s t : State} (hn : m ≠ .node) (hr : ∀ st, m ≠ .resetNode st)
    (h : performMove m s = .next t) : t.slave = s.slave := by
  cases m with
  | node => exact absurd rfl hn
  | resetNode st => exact absurd rfl (hr st)
  | writeCmd w => cases h; rw [writeCmd_eq]
  | phy st rx => cases h; exact phyMove_slave s st rx
  | rxByte b => obtain ⟨d, _, rfl⟩ := hostStep_next h; rfl
  | peripherals p => cases h; rfl
  | resetHost fbuf => cases h; rfl

theorem performMove_cursor_zero {m : Move} {s t : State} (h : performMove m s = .next t)
    (hv : t.slave.svalid = true) (h0 : t.slave.soff = 0#3) (hn : s.slave.svalid = true → s.slave.soff ≠ 0#3) :
    s.port.irq = true ∧ s.busEvent = .slaveByteReceivedAckSent ∧ s.slave.svalid = true ∧
      t.slave.sdev = s.port.data := by
  have changed : t.slave ≠ s.slave := fun hk => hn (hk ▸ hv) (hk ▸ h0)
  by_cases hnode : m = .node
  · subst hnode
    rcases nodeStep_cases h with ⟨hi, h⟩ | ⟨_, h⟩
    · exact ⟨hi, (handlerStep_move h).cursor_zero hv h0 hn⟩
    · obtain ⟨_, hslave, _⟩ := (foregroundStep_move h).frame
      exact absurd hslave changed
  · by_cases hr : ∃ st, m = .resetNode st
    · obtain ⟨st, rfl⟩ := hr
      cases h
      cases hv
    · exact absurd (performMove_slave hnode (not_exists.mp hr) h) changed

/-- Settles O40: of all agents only the handler gives a cursor an offset of 0, by `HandlerMove.cursor_zero`. -/
theorem cursorOffsetZeroOnlyByNewDevice : Obligations.CursorOffsetZeroOnlyByNewDevice := by
  intro s t h hv h0 hn
  rw [step_eq_performMove] at h
  exact (performMove_cursor_zero h hv h0 hn :)

/-! ## The two histories -/

/-- A history with at most one record more (10_state.md R31, R48). -/
def GrowsByAtMostOne {α : Type} (old new : List α) : Prop := ∃ recs : List α, recs.length ≤ 1 ∧ new = old ++ recs

theorem GrowsByAtMostOne.of_eq {α : Type} {old new : List α} (h : new = old) : GrowsByAtMostOne old new :=
  ⟨[], by simp, by simp [h]⟩

theorem GrowsByAtMostOne.append_one {α : Type} (old : List α) (r : α) : GrowsByAtMostOne old (old ++ [r]) :=
  ⟨[r], le_rfl, rfl⟩

theorem ArmsAtMostOnce.trace_grows {p q : Port} (h : ArmsAtMostOnce p q) : GrowsByAtMostOne p.trace q.trace := by
  cases h with
  | none => exact .of_eq rfl
  | one => exact .append_one _ _

theorem nodeStep_trace_grows {s t : State} (h : nodeStep s = .next t) :
    GrowsByAtMostOne s.port.trace t.port.trace := by
  rcases nodeStep_cases h with ⟨_, h⟩ | ⟨_, h⟩
  · exact (handlerStep_move h).arms.trace_grows
  · exact (foregroundStep_move h).arms.trace_grows

theorem rxByte_frames_grow {d d' : HostDecoder} {b : Byte} (h : d.rxByte b = some d') :
    GrowsByAtMostOne d.frames d'.frames := by
  rcases rxByte_cases d b with ⟨_, _, e⟩ | ⟨_, _, e⟩ | ⟨_, _, e⟩ | ⟨_, _, _, e⟩ | ⟨_, _, _, e⟩ | ⟨_, _, _, _, e⟩ <;>
    rw [e] at h
  · cases h; exact .of_eq rfl
  · cases h; exact .of_eq rfl
  · cases h; exact .of_eq rfl
  · cases h; exact .of_eq rfl
  · obtain ⟨_, ⟨_, rfl⟩ | ⟨f, _, rfl⟩⟩ := finalize_some h
    · exact .of_eq rfl
    · exact .append_one _ f
  · obtain ⟨_, rfl⟩ := storeByte_some h
    exact .of_eq rfl

theorem performMove_cfg {m : Move} {s t : State} (h : performMove m s = .next t) : t.cfg = s.cfg := by
  cases m with
  | node => exact (nodeStep_frame h).1
  | phy st rx => cases h; exact phyMove_cfg s st rx
  | rxByte b => obtain ⟨_, _, rfl⟩ := hostStep_next h; rfl
  | writeCmd w => cases h; rw [writeCmd_eq]
  | peripherals | resetNode | resetHost => cases h; rfl

theorem performMove_trace_grows {m : Move} {s t : State} (hr : ∀ st, m ≠ .resetNode st)
    (h : performMove m s = .next t) : GrowsByAtMostOne s.port.trace t.port.trace := by
  cases m with
  | node => exact nodeStep_trace_grows h
  | phy st rx => cases h; exact .of_eq (phyMove_trace s st rx)
  | rxByte b => obtain ⟨_, _, rfl⟩ := hostStep_next h; exact .of_eq rfl
  | writeCmd w => cases h; rw [writeCmd_eq]; exact .of_eq rfl
  | peripherals | resetHost => cases h; exact .of_eq rfl
  | resetNode st => exact absurd rfl (hr st)

theorem performMove_frames_grow {m : Move} {s t : State} (hr : ∀ fb, m ≠ .resetHost fb)
    (h : performMove m s = .next t) : GrowsByAtMostOne s.host.frames t.host.frames := by
  cases m with
  | node => rw [(nodeStep_frame h).2]; exact .of_eq rfl
  | phy st rx => cases h; rw [phyMove_host]; exact .of_eq rfl
  | rxByte b => obtain ⟨_, hd, rfl⟩ := hostStep_next h; exact rxByte_frames_grow hd
  | writeCmd w => cases h; rw [writeCmd_eq]; exact .of_eq rfl
  | peripherals | resetNode => cases h; exact .of_eq rfl
  | resetHost fb => exact absurd rfl (hr fb)

/-- The move a step takes is the one that heads the schedule, or the node's. -/
theorem headD_node_ne {l : List Move} {m : Move} (hm : m ≠ .node) (h : l.head? ≠ some m) : l.headD .node ≠ m := by
  cases l with
  | nil => exact hm.symm
  | cons a l => simpa using h

/-- Settles O56: each agent's move keeps the parameters and adds at most one record to one history. -/
theorem historiesGrow : Obligations.HistoriesGrow := by
  intro s t h
  rw [step_eq_performMove] at h
  exact ⟨(performMove_cfg h :),
    fun hr => (performMove_trace_grows (fun st => headD_node_ne nofun (hr st)) h :),
    fun hr => (performMove_frames_grow (fun fb => headD_node_ne nofun (hr fb)) h :)⟩

/-! ## The invariant: the port -/

theorem PortInv.reset (stat : Byte) : PortInv (Port.reset stat) := by
  constructor <;> simp [Port.reset]

theorem PortInv.entryFlags {p : Port} (h : PortInv p) : PortInv p.entryFlags where
  irq_done := nofun
  irq_ien := nofun
  pend_done _ := rfl
  pend_kind := h.pend_kind
  trace_kind := h.trace_kind

theorem PortInv.arms {p q : Port} (h : PortInv p) (hi : p.irq = false) (ha : ArmsAtMostOnce p q) : PortInv q := by
  cases ha with
  | none => exact h
  | one k data a e hk =>
    constructor
    case trace_kind =>
      intro r hr
      rcases List.mem_append.mp hr with hr | hr
      · exact h.trace_kind r hr
      · rw [List.mem_singleton.mp hr]; exact hk
    all_goals simp [armedPort, hi, hk]

theorem PortInv.phyComplete {s : State} (h : PortInv s.port) (st : Byte) (rx : Option Byte) :
    PortInv (s.phyComplete st rx).port where
  irq_done _ := rfl
  irq_ien hi := by
    rcases Bool.or_eq_true_iff.mp hi with hi | hi
    · exact h.irq_ien hi
    · exact hi
  pend_done := nofun
  pend_kind := nofun
  trace_kind := h.trace_kind

/-! ## The invariant: the foreground registers -/

theorem ForegroundInv.reset : ForegroundInv Foreground.reset := by
  constructor <;> simp [Foreground.reset, expectedBeforeReceive, ResLegal]

theorem resLegal_deferred : ResLegal resDeferred := .inr (.inl rfl)

theorem resLegal_invalid : ResLegal resInvalid := .inr (.inr (.inl rfl))

theorem resLegal_index (e : BusEvent) : ResLegal e.index := by simp [ResLegal, ofIndex_index]

/-- At `MSTEP = 0` the invariant is about the counter, the result registers and `CMD` only. -/
theorem ForegroundInv.of_idle {f : Foreground} (hm : f.mstep = .idle) (hle : f.rdcnt.toNat ≤ 4) (hres : ResLegal f.res)
    (hcmd : f.busy = true → f.cmd = none) (hok : f.rdok = true → f.rdcnt = 1#3 ∨ f.rdcnt = 4#3) : ForegroundInv f where
  rdcnt_le := hle
  res_legal := hres
  idle_of_not_busy _ := hm
  cmd_of_busy := hcmd
  rdok_of_step h := absurd hm h
  rdcnt_early h := by simp [hm, expectedBeforeReceive] at h
  rdcnt_recv h := by simp [hm] at h
  stop_count h := by simp [hm] at h
  stop_event h := by simp [hm] at h
  rdok_count := hok

/-- While RDDEV is in progress (`BUSY = 1`, `RDOK = 0`) the invariant is what its position asks of the counter. -/
theorem ForegroundInv.of_running {f : Foreground} (hb : f.busy = true) (hok : f.rdok = false) (hcmd : f.cmd = none)
    (hres : ResLegal f.res) (hle : f.rdcnt.toNat ≤ 4)
    (hearly : (expectedBeforeReceive f.mstep).isSome = true → f.rdcnt = 0#3)
    (hrecv : f.mstep = .recv → f.rdcnt.toNat < payLen f.dev)
    (hstop : f.mstep = .stopOk → f.rdcnt.toNat = payLen f.dev ∧ f.evt = .masterByteReceivedNackSent) :
    ForegroundInv f where
  rdcnt_le := hle
  res_legal := hres
  idle_of_not_busy h := by simp [hb] at h
  cmd_of_busy _ := hcmd
  rdok_of_step _ := hok
  rdcnt_early := hearly
  rdcnt_recv := hrecv
  stop_count h := (hstop h).1
  stop_event h := (hstop h).2
  rdok_count h := by simp [hok] at h

/-- A whole payload is one byte or four (30_encoding.md R105). -/
theorem rdcnt_of_payLen {c : BitVec 3} {dev : DeviceId} (h : c.toNat = payLen dev) : c = 1#3 ∨ c = 4#3 := by
  cases dev
  · exact .inl (BitVec.eq_of_toNat_eq h)
  · exact .inr (BitVec.eq_of_toNat_eq h)
  · exact .inr (BitVec.eq_of_toNat_eq h)

theorem MdpMove.foregroundInv {e : BusEvent} {s t : State} (h : MdpMove e s t) (hs : ForegroundInv s.fg)
    (hb : s.fg.busy = true) : ForegroundInv t.fg := by
  have hcmd := hs.cmd_of_busy hb
  cases h with
  | finish hm => exact .of_idle hm hs.rdcnt_le (resLegal_index e) nofun hs.rdok_count
  | abort hm => exact .of_idle rfl hs.rdcnt_le (resLegal_index e) nofun hs.rdok_count
  | advance m k load he hm =>
    have hok := hs.rdok_of_step (fun h => by simp [h, expectedBeforeReceive] at he)
    have hzero := hs.rdcnt_early (by simp [he])
    rw [mdpArm_eq]
    exact .of_running hb hok hcmd hs.res_legal hs.rdcnt_le (fun _ => hzero)
      (by rintro rfl; cases hm) (by rintro rfl; cases hm)
  | receiveFirst hm he =>
    have hok := hs.rdok_of_step (by simp [hm])
    have hzero := hs.rdcnt_early (by simp [hm, expectedBeforeReceive])
    rw [mdpArmReceive, mdpArm_eq]
    exact .of_running hb hok hcmd hs.res_legal hs.rdcnt_le (fun _ => hzero)
      (fun _ => by simp only [hzero]; exact payLen_pos s.fg.dev) nofun
  | receiveNext hm hi he hl =>
    have hok := hs.rdok_of_step (by simp [hm])
    have hadd := toNat_add_one_of_lt (hi.trans (by decide))
    have hlt := hs.rdcnt_recv hm
    rw [mdpArmReceive, mdpArm_eq]
    exact .of_running hb hok hcmd hs.res_legal (by simp only [State.storeReceived, hadd]; omega) nofun
      (fun _ => by simp only [State.storeReceived, hadd]; omega) nofun
  | receiveLast hm hi he hl =>
    have hok := hs.rdok_of_step (by simp [hm])
    have hadd := toNat_add_one_of_lt (hi.trans (by decide))
    rw [mdpStop, mdpArm_eq]
    exact .of_running hb hok hcmd hs.res_legal (by simp only [State.storeReceived, hadd]; omega) nofun nofun
      (fun _ => ⟨hadd.trans hl, by simpa [mdpWant, hl] using he⟩)
  | fail hm =>
    have hok := hs.rdok_of_step (fun h => by simp [h] at hm)
    rw [mdpFail, mdpStop, mdpArm_eq]
    exact .of_running hb hok hcmd hs.res_legal hs.rdcnt_le nofun nofun nofun
  | returnOk hm =>
    exact .of_idle rfl hs.rdcnt_le (resLegal_index _) nofun (fun _ => rdcnt_of_payLen (hs.stop_count hm))
  | returnFail hm =>
    exact .of_idle rfl hs.rdcnt_le (resLegal_index _) nofun (fun h => hs.rdok_count (by simpa [mdpReturn] using h))

theorem ForegroundMove.foregroundInv {s t : State} (h : ForegroundMove s t) (hs : ForegroundInv s.fg) :
    ForegroundInv t.fg := by
  cases h with
  | stay => exact hs
  | complete hb _ hm => exact hm.foregroundInv hs hb
  | reject w _ hb =>
    exact .of_idle (hs.idle_of_not_busy hb) hs.rdcnt_le resLegal_invalid (fun _ => rfl)
      (fun h => hs.rdok_count (by simp [State.rejectCommand] at h; exact h.1))
  | reserved w _ _ hb =>
    exact .of_idle (hs.idle_of_not_busy hb) hs.rdcnt_le resLegal_invalid (fun _ => rfl) hs.rdok_count
  | primitive w _ k a load d hb =>
    have hres : ResLegal (s.takeCommand.primitive k a load d).fg.res := by
      cases d
      · simpa using hs.res_legal
      · simpa using resLegal_deferred
    exact .of_idle (by simpa using hs.idle_of_not_busy hb) (by simpa using hs.rdcnt_le) hres (fun _ => by simp)
      (by simpa using hs.rdok_count)
  | rddev w peer dev hb => exact .of_running rfl rfl rfl hs.res_legal (Nat.zero_le _) (fun _ => rfl) nofun nofun

theorem ForegroundInv.writeCmd {s : State} (h : ForegroundInv s.fg) (w : Word) : ForegroundInv (s.writeCmd w).fg := by
  rw [writeCmd_eq]
  exact { h with cmd_of_busy := fun hb : s.fg.busy = true => by simp [hb, h.cmd_of_busy hb] }

/-! ## The invariant: the blocking wait -/

/-- A completion leaves the foreground busy only with the next blocking arm outstanding. -/
theorem MdpMove.waitInv {e : BusEvent} {s t : State} (h : MdpMove e s t) : WaitInv t := by
  suffices hw : t.fg.busy = true → t.port.ien = false ∧ t.port.armPend = true from
    ⟨fun hb => (hw hb).1, fun hb => .inr (hw hb).2⟩
  cases h with
  | finish | abort | returnOk | returnFail => nofun
  | advance | receiveFirst | receiveNext | receiveLast | fail => exact fun _ => ⟨rfl, rfl⟩

theorem ForegroundMove.waitInv {s t : State} (h : ForegroundMove s t) (hs : WaitInv s) : WaitInv t := by
  cases h with
  | stay => exact hs
  | complete _ _ hm => exact hm.waitInv
  | reject _ _ hb | reserved _ _ _ hb => exact ⟨by simp [State.rejectCommand, hb], by simp [State.rejectCommand, hb]⟩
  | primitive w _ k a load d hb => exact ⟨by cases d <;> simp [hb], by simp⟩
  | rddev => exact ⟨fun _ => rfl, fun _ => .inr rfl⟩

theorem WaitInv.phyComplete {s : State} (h : WaitInv s) (st : Byte) (rx : Option Byte) :
    WaitInv (s.phyComplete st rx) :=
  ⟨h.ien_of_busy, fun _ => .inl rfl⟩

/-- A pending interrupt has its enable, a blocking wait has cleared it: the handler runs in no blocking wait. -/
theorem MachineInv.not_busy_of_irq {s : State} (h : MachineInv s) (hi : s.port.irq = true) : s.fg.busy = false := by
  cases hb : s.fg.busy
  · rfl
  · have hien := h.port.irq_ien hi
    rw [h.wait.ien_of_busy hb] at hien
    cases hien

/-! ## The invariant: the decoder -/

theorem HostInv.reset (fbuf : Vector Byte 6) : HostInv (HostDecoder.reset fbuf) := ⟨Nat.zero_le _, fun _ => rfl, nofun⟩

/-- A decoder with its cursor at the start of the buffer has captured nothing. -/
theorem HostInv.of_fcur_zero {d : HostDecoder} (h : d.fcur = 0#3) : HostInv d :=
  ⟨by simp [h], fun _ => h, by simp [h]⟩

theorem HostInv.storeByte {d d' : HostDecoder} {b : Byte} (hd : HostInv d) (hf : d.fin = true) (hs : b ≠ startDelim)
    (he : b ≠ endDelim) (h : d.storeByte b = some d') : HostInv d' := by
  obtain ⟨hi, rfl⟩ := storeByte_some h
  have hadd := toNat_add_one_of_lt (hi.trans (by decide))
  refine ⟨by simp only [hadd]; omega, fun h => by simp [hf] at h, fun _ i hlt => ?_⟩
  simp only [hadd] at hlt
  by_cases hit : d.fcur.toNat = i.val
  · simp [hit, hs, he]
  · have hold := hd.captured hf i (by omega)
    simpa [Vector.getElem_set, hit] using hold

theorem HostInv.rxByte {d d' : HostDecoder} {b : Byte} (hd : HostInv d) (h : d.rxByte b = some d') : HostInv d' := by
  rcases rxByte_cases d b with ⟨_, _, e⟩ | ⟨hf, _, e⟩ | ⟨_, _, e⟩ | ⟨_, _, _, e⟩ | ⟨_, _, _, e⟩ | ⟨hf, hs, he, _, e⟩ <;>
    rw [e] at h
  · cases h; exact .of_fcur_zero rfl
  · cases h; exact .of_fcur_zero (hd.fcur_outside hf)
  · cases h; exact .of_fcur_zero rfl
  · cases h; exact .of_fcur_zero rfl
  · obtain ⟨_, ⟨_, rfl⟩ | ⟨_, _, rfl⟩⟩ := finalize_some h <;> exact .of_fcur_zero rfl
  · exact hd.storeByte hf hs he h

/-! ## The invariant of the machine -/

/-- Settles O51: each part of the machine meets its invariant at its reset. -/
theorem invAtReset : Obligations.InvAtReset :=
  ⟨.reset _, .reset, ⟨nofun, nofun⟩, Nat.zero_le _, .reset _⟩

theorem MachineInv.handlerStep {s t : State} (hs : MachineInv s) (hi : s.port.irq = true)
    (h : handlerStep s = .next t) : MachineInv t := by
  have hm := handlerStep_move h
  obtain ⟨_, hfg, hhost, _, _⟩ := handlerStep_next h
  have hfree : t.fg.busy = false := hfg ▸ hs.not_busy_of_irq hi
  exact ⟨hs.port.entryFlags.arms rfl hm.arms, hfg ▸ hs.fg, ⟨by simp [hfree], by simp [hfree]⟩, hm.soff_le hs.soff_le,
    hhost ▸ hs.host⟩

theorem MachineInv.foregroundStep {s t : State} (hs : MachineInv s) (hi : s.port.irq = false)
    (h : foregroundStep s = .next t) : MachineInv t := by
  have hm := foregroundStep_move h
  obtain ⟨_, hslave, hhost, _, _⟩ := hm.frame
  exact ⟨hs.port.arms hi hm.arms, hm.foregroundInv hs.fg, hm.waitInv hs.wait, hslave ▸ hs.soff_le, hhost ▸ hs.host⟩

theorem MachineInv.nodeStep {s t : State} (hs : MachineInv s) (h : nodeStep s = .next t) : MachineInv t := by
  rcases nodeStep_cases h with ⟨hi, h⟩ | ⟨hi, h⟩
  · exact hs.handlerStep hi h
  · exact hs.foregroundStep hi h

theorem MachineInv.phyMove {s : State} (hs : MachineInv s) (st : Byte) (rx : Option Byte) :
    MachineInv (s.phyMove st rx) := by
  rw [phyMove_eq]
  cases s.port.done
  · exact ⟨hs.port.phyComplete st rx, hs.fg, hs.wait.phyComplete st rx, hs.soff_le, hs.host⟩
  · exact hs

theorem MachineInv.writeCmd {s : State} (hs : MachineInv s) (w : Word) : MachineInv (s.writeCmd w) := by
  have hfg := hs.fg.writeCmd w
  rw [writeCmd_eq] at hfg ⊢
  exact ⟨hs.port, hfg, ⟨hs.wait.ien_of_busy, hs.wait.answer_of_busy⟩, hs.soff_le, hs.host⟩

/-- A move that writes nothing of the node keeps the invariant if it keeps the decoder's. -/
theorem MachineInv.of_node_kept {s t : State} (hs : MachineInv s) (hport : t.port = s.port) (hfg : t.fg = s.fg)
    (hslave : t.slave = s.slave) (hhost : HostInv t.host) : MachineInv t :=
  have hwait : WaitInv t := ⟨hport ▸ hfg ▸ hs.wait.ien_of_busy, hport ▸ hfg ▸ hs.wait.answer_of_busy⟩
  ⟨hport ▸ hs.port, hfg ▸ hs.fg, hwait, hslave ▸ hs.soff_le, hhost⟩

theorem MachineInv.performMove {m : Move} {s t : State} (hs : MachineInv s) (h : performMove m s = .next t) :
    MachineInv t := by
  cases m with
  | node => exact hs.nodeStep h
  | writeCmd w => cases h; exact hs.writeCmd w
  | phy st rx => cases h; exact hs.phyMove st rx
  | rxByte b => obtain ⟨d, hd, rfl⟩ := hostStep_next h; exact hs.of_node_kept rfl rfl rfl (hs.host.rxByte hd)
  | peripherals p => cases h; exact hs.of_node_kept rfl rfl rfl hs.host
  | resetNode st => cases h; exact ⟨.reset st, .reset, ⟨nofun, nofun⟩, Nat.zero_le _, hs.host⟩
  | resetHost fbuf => cases h; exact hs.of_node_kept rfl rfl rfl (.reset fbuf)

/-- Settles O52: every agent's move keeps every part of the invariant, and taking it off the schedule changes none. -/
theorem stepKeepsInv : Obligations.StepKeepsInv := by
  intro s t hs h
  rw [step_eq_performMove] at h
  have hpopped : MachineInv { s with agenda := s.agenda.tail } := hs.of_node_kept rfl rfl rfl hs.host
  exact hpopped.performMove h

end Sys2Proof.Machine
end

section
/-! The statements about the memory of the block: the step is total on the invariant, the interrupt goes before the
foreground, and a payload keeps its pattern from the snapshot to the decoded frame. -/

namespace Sys2Proof.Machine

/-! ## The handler always answers -/

theorem ArmsAtMostOnce.done_eq_false {p q : Port} (h : ArmsAtMostOnce p q) (hp : p.done = false) : q.done = false := by
  cases h with
  | none => exact hp
  | one => rfl

/-- The handler reads `SNAP` only below the payload, so its transition answers in every state (20_memory.md R65,
42_slave_protocol.md R176). -/
theorem execEvtSlaveByteSentAckReceived_answers (s : State) : ∃ t, execEvtSlaveByteSentAckReceived s = .next t := by
  unfold execEvtSlaveByteSentAckReceived
  cases hm : s.slave.moreBytes with
  | false => simp [hm]
  | true => simp [hm, readBuf_of_lt s.slave.snap (soff_lt_of_moreBytes hm)]

theorem execEvtSlaveAddressedForRead_answers (s : State) : ∃ t, execEvtSlaveAddressedForRead s = .next t := by
  unfold execEvtSlaveAddressedForRead
  cases hd : DeviceId.ofByte s.slave.sdev <;> simp [hd]

theorem handlerStep_answers (s : State) : ∃ t, handlerStep s = .next t := by
  unfold handlerStep
  cases s.busEvent
  case slaveAddressedForRead => exact execEvtSlaveAddressedForRead_answers s
  case slaveByteSentAckReceived => exact execEvtSlaveByteSentAckReceived_answers s
  all_goals exact ⟨_, rfl⟩

/-- Settles O18: a pending interrupt has `DONE = 1`, so no completion is taken; the handler answers, and writes no
foreground register. -/
theorem interruptBeforeForeground : Obligations.InterruptBeforeForeground := by
  intro s hs hi
  obtain ⟨t, ht⟩ := handlerStep_answers s
  obtain ⟨_, hfg, _⟩ := handlerStep_next ht
  have hnode : nodeStep s = handlerStep s := by simp [nodeStep, hi]
  have harms := (handlerStep_move ht).arms
  exact ⟨fun st rx => by simp [phyMove_eq, hs.port.irq_done hi],
    t, hnode.trans ht, ht, hfg, harms.irq_eq, harms.done_eq_false rfl⟩

/-! ## Every step answers on the invariant -/

/-- The receive loop stores inside `RDBUF` (20_memory.md R65). -/
theorem mdpByte_answers {s : State} (e : BusEvent) (hi : s.fg.rdcnt.toNat < 4) : ∃ t, mdpByte e s = .next t := by
  rcases mdpByte_cases e s with ⟨_, h⟩ | ⟨_, hge, _⟩ | ⟨_, _, ⟨_, h⟩ | ⟨_, h⟩⟩
  · exact ⟨_, h⟩
  · omega
  · exact ⟨_, h⟩
  · exact ⟨_, h⟩

theorem mdpComplete_answers {s : State} (e : BusEvent) (hs : ForegroundInv s.fg) : ∃ t, mdpComplete e s = .next t := by
  unfold mdpComplete
  split
  case h_7 hm => exact mdpByte_answers e ((hs.rdcnt_recv hm).trans_le (payLen_le _))
  case h_1 | h_8 | h_9 => exact ⟨_, rfl⟩
  all_goals split <;> exact ⟨_, rfl⟩

theorem acceptCommand_answers (w : Word) (s : State) : ∃ t, acceptCommand w s = .next t := by
  unfold acceptCommand
  split
  case h_1 i hd =>
    rcases decodeCmd_cases hd with ⟨op, rest, rfl, _⟩ | ⟨k, a, load, d, hp, _⟩ | ⟨peer, dev, rfl⟩
    · exact ⟨_, rfl⟩
    · exact ⟨_, exec_of_primitiveArm hp s⟩
    · exact ⟨_, rfl⟩
  case h_2 => exact ⟨_, rfl⟩

theorem foregroundStep_answers {s : State} (hs : ForegroundInv s.fg) : ∃ t, foregroundStep s = .next t := by
  unfold foregroundStep
  split
  · split
    · exact mdpComplete_answers s.busEvent hs
    · exact ⟨_, rfl⟩
  · split
    · exact acceptCommand_answers _ _
    · exact ⟨_, rfl⟩

theorem nodeStep_answers {s : State} (hs : MachineInv s) : ∃ t, nodeStep s = .next t := by
  unfold nodeStep
  split
  · exact handlerStep_answers s
  · exact foregroundStep_answers hs.fg

/-- R196 inside the buffer: the byte is stored at the cursor. -/
theorem storeByte_of_lt {d : HostDecoder} (b : Byte) (hi : d.fcur.toNat < 6) :
    d.storeByte b =
      some { d with frValid := false, fbuf := d.fbuf.set d.fcur.toNat b hi, fcur := d.fcur + 1#3 } := by
  simp [HostDecoder.storeByte, writeBuf_of_lt d.fbuf b hi]

/-- The decoder after the end delimiter at its cursor, before a frame is emitted (43_frame_decoder.md R195). -/
def HostDecoder.closeFrame (d : HostDecoder) (hi : d.fcur.toNat < 6) : HostDecoder :=
  { d with frValid := false, fbuf := d.fbuf.set d.fcur.toNat endDelim hi, fin := false, fcur := 0#3 }

/-- R195 inside the buffer: the end delimiter is stored and the frame emitted if it is valid. -/
theorem finalize_of_lt {d : HostDecoder} (hi : d.fcur.toNat < 6) :
    d.finalize =
      some (((frameOf (d.closeFrame hi).fbuf d.fcur.toNat).map (d.closeFrame hi).emit).getD (d.closeFrame hi)) := by
  rw [HostDecoder.finalize, writeBuf_of_lt d.fbuf endDelim hi]
  simp only [HostDecoder.closeFrame]
  cases frameOf (d.fbuf.set d.fcur.toNat endDelim hi) d.fcur.toNat <;> rfl

/-- A cursor that is not at the end of the buffer is inside it (10_state.md R52). -/
theorem HostInv.fcur_lt {d : HostDecoder} (hd : HostInv d) (h6 : d.fcur ≠ 6#3) : d.fcur.toNat < 6 :=
  hd.fcur_le.lt_of_ne (fun h => h6 (BitVec.eq_of_toNat_eq h))

theorem HostInv.rxByte_answers {d : HostDecoder} (hd : HostInv d) (b : Byte) : ∃ d', d.rxByte b = some d' := by
  rcases rxByte_cases d b with ⟨_, _, h⟩ | ⟨_, _, h⟩ | ⟨_, _, h⟩ | ⟨_, _, _, h⟩ | ⟨_, _, h6, h⟩ | ⟨_, _, _, h6, h⟩
  · exact ⟨_, h⟩
  · exact ⟨_, h⟩
  · exact ⟨_, h⟩
  · exact ⟨_, h⟩
  · exact ⟨_, h.trans (finalize_of_lt (hd.fcur_lt h6))⟩
  · exact ⟨_, h.trans (storeByte_of_lt b (hd.fcur_lt h6))⟩

theorem hostStep_of_rxByte {b : Byte} {s : State} {d : HostDecoder} (h : s.host.rxByte b = some d) :
    hostStep b s = .next { s with host := d } := by
  rw [hostStep_eq, h]
  rfl

theorem performMove_answers {s : State} (hs : MachineInv s) (m : Move) : ∃ t, performMove m s = .next t := by
  cases m with
  | node => exact nodeStep_answers hs
  | rxByte b =>
    obtain ⟨d, hd⟩ := hs.host.rxByte_answers b
    exact ⟨_, hostStep_of_rxByte hd⟩
  | writeCmd | phy | peripherals | resetNode | resetHost => exact ⟨_, rfl⟩

/-- Settles O53: every agent's move answers on the invariant, and taking it off the schedule keeps the invariant. -/
theorem machineNeverStops : Obligations.MachineNeverStops := by
  intro s hs
  have hpopped : MachineInv { s with agenda := s.agenda.tail } := hs.of_node_kept rfl rfl rfl hs.host
  rw [step_eq_performMove]
  exact performMove_answers hpopped _

/-! ## Bytes delivered in turn -/

theorem runSteps_succ {s t : State} (n : Nat) (h : step s = .next t) : runSteps (n + 1) s = runSteps n t := by
  have hcore : Sys2Proof.core.step s = .next t := h
  simp only [runSteps, Host.Core.run]
  rw [hcore]

/-- The run that delivers bytes in turn is the decoder's own fold over them (60_exceptions.md R233). -/
theorem runSteps_byteScript {bs : List Byte} {s : State} {d : HostDecoder} (ha : s.agenda = byteScript bs)
    (h : bs.foldlM HostDecoder.rxByte s.host = some d) :
    runSteps bs.length s = .next { s with host := d, agenda := [] } := by
  induction bs generalizing s with
  | nil =>
    cases h
    have hnil : s.agenda = [] := ha
    rw [← hnil]
    rfl
  | cons b bs ih =>
    obtain ⟨d1, h1, hrest⟩ := Option.bind_eq_some_iff.mp h
    have hstep : step s = .next { s with host := d1, agenda := byteScript bs } := by
      rw [step_eq_performMove, ha]
      exact hostStep_of_rxByte h1
    rw [List.length_cons, runSteps_succ _ hstep]
    exact ih rfl hrest

/-! ## A frame captured byte by byte -/

/-- Inside a frame, with exactly `bs` captured since the start delimiter and `out` emitted so far. -/
structure Captured (out : List (Byte × Word)) (bs : List Byte) (d : HostDecoder) : Prop where
  fin : d.fin = true
  length : d.fcur.toNat = bs.length
  bytes : d.fbuf.toList.take bs.length = bs
  frames : d.frames = out

theorem rxByte_start_captured {d : HostDecoder} (hf : d.fin = false) :
    ∃ d', d.rxByte 0x7C#8 = some d' ∧ Captured d.frames [] d' :=
  ⟨d.enterFrame, by simp [HostDecoder.rxByte, hf, startDelim], rfl, rfl, rfl, rfl⟩

/-- An ordinary byte inside a frame with room is added to what is captured (43_frame_decoder.md R196). -/
theorem Captured.rxByte {out : List (Byte × Word)} {bs : List Byte} {d : HostDecoder} (h : Captured out bs d) {b : Byte}
    (hs : b ≠ startDelim) (he : b ≠ endDelim) (hroom : bs.length < 6) :
    ∃ d', d.rxByte b = some d' ∧ Captured out (bs ++ [b]) d' := by
  have hi : d.fcur.toNat < 6 := h.length ▸ hroom
  have h6 : d.fcur ≠ 6#3 := fun hfull => by simp [hfull] at hi
  have hrx : d.rxByte b = d.storeByte b := by simp [HostDecoder.rxByte, h.fin, hs, he, h6]
  refine ⟨_, hrx.trans (storeByte_of_lt b hi), h.fin, ?_, ?_, h.frames⟩
  · simp only [toNat_add_one_of_lt (hi.trans (by decide)), h.length, List.length_append, List.length_singleton]
  · have hlast : (d.fbuf.toList.set bs.length b)[bs.length]? = some b := by simp [hroom]
    simp [h.length, List.take_add_one, Vector.toList_set, List.take_set_of_le, h.bytes, hlast]

theorem Captured.foldlM_rxByte {out : List (Byte × Word)} {bs cs : List Byte} {d : HostDecoder}
    (h : Captured out bs d) (hc : NoDelimiter cs) (hroom : bs.length + cs.length ≤ 6) :
    ∃ d', cs.foldlM HostDecoder.rxByte d = some d' ∧ Captured out (bs ++ cs) d' := by
  induction cs generalizing bs d with
  | nil => exact ⟨d, rfl, by simpa using h⟩
  | cons c cs ih =>
    obtain ⟨⟨hs, he⟩, hcs⟩ := List.forall_mem_cons.mp hc
    rw [List.length_cons] at hroom
    obtain ⟨d1, h1, hd1⟩ := h.rxByte hs he (by omega)
    obtain ⟨d2, h2, hd2⟩ := ih hd1 hcs (by simp; omega)
    exact ⟨d2, by simp [List.foldlM_cons, h1, h2], by simpa using hd2⟩

/-- The four bytes of a pattern in transfer order make the pattern again (20_memory.md R62, R63). -/
theorem bytesWord_extractLsb' (v : Word) :
    bytesWord (v.extractLsb' 0 8) (v.extractLsb' 8 8) (v.extractLsb' 16 8) (v.extractLsb' 24 8) = v := by
  have h1 : v.extractLsb' 24 8 ++ v.extractLsb' 16 8 = v.extractLsb' 16 16 :=
    BitVec.extractLsb'_append_extractLsb'_eq_extractLsb' rfl
  have h2 : v.extractLsb' 16 16 ++ v.extractLsb' 8 8 = v.extractLsb' 8 24 :=
    BitVec.extractLsb'_append_extractLsb'_eq_extractLsb' rfl
  have h3 : v.extractLsb' 8 24 ++ v.extractLsb' 0 8 = v.extractLsb' 0 32 :=
    BitVec.extractLsb'_append_extractLsb'_eq_extractLsb' rfl
  rw [bytesWord, h1, h2, h3, BitVec.extractLsb'_eq_self]

/-- A buffer that begins with some bytes has each of them at its index. -/
theorem getElem_of_take {buf : Vector Byte 6} {bs : List Byte} (h : buf.toList.take bs.length = bs) {i : Nat}
    (hi : i < bs.length) (h6 : i < 6) : buf[i] = bs[i] := by
  have hget : (buf.toList.take bs.length)[i]? = bs[i]? := by rw [h]
  simpa [List.getElem?_take, hi, h6] using hget

/-- The device byte and the payload of a value at the start of the buffer stand for the value (43_frame_decoder.md
R199). -/
theorem frameValue_payload {buf : Vector Byte 6} {dev : DeviceId} {val : Word}
    (h : buf.toList.take (dev.code :: payloadBytes dev val).length = dev.code :: payloadBytes dev val) :
    frameValue buf dev = payloadValue dev val := by
  cases dev with
  | motor => exact congrArg (BitVec.setWidth 32) (getElem_of_take h (i := 1) (by simp [payloadBytes]) (by decide))
  | accelerometer | temperatureSensor =>
    have h1 := getElem_of_take h (i := 1) (by simp [payloadBytes]) (by decide)
    have h2 := getElem_of_take h (i := 2) (by simp [payloadBytes]) (by decide)
    have h3 := getElem_of_take h (i := 3) (by simp [payloadBytes]) (by decide)
    have h4 := getElem_of_take h (i := 4) (by simp [payloadBytes]) (by decide)
    rw [frameValue, h1, h2, h3, h4]
    exact bytesWord_extractLsb' val

theorem length_payloadBytes (dev : DeviceId) (val : Word) : (payloadBytes dev val).length = payLen dev := by
  cases dev <;> rfl

/-- The device byte and the payload of a value, captured whole, make a valid frame of it (43_frame_decoder.md R198). -/
theorem frameOf_payload {buf : Vector Byte 6} {dev : DeviceId} {val : Word}
    (h : buf.toList.take (dev.code :: payloadBytes dev val).length = dev.code :: payloadBytes dev val) :
    frameOf buf (dev.code :: payloadBytes dev val).length = some (dev.code, payloadValue dev val) := by
  have h0 : buf[0] = dev.code := getElem_of_take h (by simp) (by decide)
  simp [frameOf, h0, length_payloadBytes, Nat.add_comm, frameValue_payload h]

/-- Outside a frame, the pair of a device and a value just emitted after those in `out` (43_frame_decoder.md R200). -/
structure Delivered (out : List (Byte × Word)) (dev : DeviceId) (val : Word) (d : HostDecoder) : Prop where
  fin : d.fin = false
  fcur : d.fcur = 0#3
  frValid : d.frValid = true
  frDev : d.frDev = dev.code
  frVal : d.frVal = payloadValue dev val
  frames : d.frames = out ++ [(dev.code, payloadValue dev val)]

/-- The end delimiter after a captured device byte and payload emits their pair (43_frame_decoder.md R195, R200). -/
theorem Captured.rxByte_end {out : List (Byte × Word)} {d : HostDecoder} {dev : DeviceId} {val : Word}
    (h : Captured out (dev.code :: payloadBytes dev val) d) :
    ∃ d', d.rxByte 0x0D#8 = some d' ∧ Delivered out dev val d' := by
  have hlen := payLen_le dev
  have hi : d.fcur.toNat < 6 := by simp [h.length, length_payloadBytes]; omega
  have h6 : d.fcur ≠ 6#3 := fun hfull => by simp [hfull] at hi
  have hrx : d.rxByte 0x0D#8 = d.finalize := by simp [HostDecoder.rxByte, h.fin, h6, startDelim, endDelim]
  have hframe : frameOf (d.closeFrame hi).fbuf d.fcur.toNat = some (dev.code, payloadValue dev val) := by
    rw [h.length]
    refine frameOf_payload ?_
    simp only [HostDecoder.closeFrame, Vector.toList_set, h.length, List.take_set_of_le le_rfl, h.bytes]
  refine ⟨_, hrx.trans (finalize_of_lt hi), ?_⟩
  rw [hframe]
  exact ⟨rfl, rfl, rfl, rfl, rfl, congrArg (· ++ _) h.frames⟩

/-- A frame whose payload holds no delimiter, taken by a decoder outside a frame, emits its pair
(43_frame_decoder.md R190 to R200). -/
theorem foldlM_rxByte_frameEncode {d : HostDecoder} {dev : DeviceId} {val : Word} (hf : d.fin = false)
    (hp : NoDelimiter (payloadBytes dev val)) :
    ∃ d', (frameEncode dev val).foldlM HostDecoder.rxByte d = some d' ∧ Delivered d.frames dev val d' := by
  have hbody : NoDelimiter (dev.code :: payloadBytes dev val) :=
    List.forall_mem_cons.mpr ⟨by cases dev <;> decide, hp⟩
  have hlen := payLen_le dev
  obtain ⟨d1, h1, hc1⟩ := rxByte_start_captured hf
  obtain ⟨d2, h2, hc2⟩ := hc1.foldlM_rxByte hbody (by simp [length_payloadBytes]; omega)
  obtain ⟨d3, h3, hend⟩ := hc2.rxByte_end
  have hfold : (frameEncode dev val).foldlM HostDecoder.rxByte d = some d3 := by
    have hsplit : frameEncode dev val = 0x7C#8 :: ((dev.code :: payloadBytes dev val) ++ [0x0D#8]) := rfl
    rw [hsplit, List.foldlM_cons, h1, Option.bind_eq_bind, Option.bind_some, List.foldlM_append, h2]
    simpa using h3
  exact ⟨d3, hfold, hend⟩

/-! ## The round trip of a float -/

/-- What a slave snapshots for a float is the pattern's bytes (42_slave_protocol.md R175). -/
theorem snapshotBytes_float {p : Peripherals} {dev : DeviceId} {v : Word} (old : Vector Byte 4)
    (h : (dev = .accelerometer ∧ v = p.accel) ∨ (dev = .temperatureSensor ∧ v = p.temp)) :
    snapshotBytes p old dev = wordBytes v := by
  rcases h with ⟨rfl, rfl⟩ | ⟨rfl, rfl⟩ <;> rfl

theorem rdval_of_wordBytes {f : Foreground} {v : Word} (h : f.rdbuf = wordBytes v) : f.rdval = v := by
  rw [Foreground.rdval, h]
  exact bytesWord_extractLsb' v

/-- Settles O50: the snapshot is the pattern's bytes, so `RDVAL` is the pattern and its clean frame is delivered. -/
theorem floatRoundTrip : Obligations.FloatRoundTrip := by
  intro s f p old dev v hdev hbuf
  have hbytes : f.rdbuf = wordBytes v := hbuf.trans (snapshotBytes_float old hdev)
  have hval := rdval_of_wordBytes hbytes
  refine ⟨hval, fun hf ha hclean => ?_⟩
  rw [hbytes] at hclean
  rw [hval] at ha
  have hfloat : payloadBytes dev v = (wordBytes v).toList ∧ payloadValue dev v = v := by
    rcases hdev with ⟨rfl, _⟩ | ⟨rfl, _⟩ <;> exact ⟨rfl, rfl⟩
  obtain ⟨hpayload, hpattern⟩ := hfloat
  obtain ⟨d, hd, hdelivered⟩ := foldlM_rxByte_frameEncode hf (hpayload ▸ hclean)
  have hlen : (frameEncode dev v).length = 7 := by simp [frameEncode, hpayload]
  have hrun := runSteps_byteScript ha hd
  have hframes := hdelivered.frames
  rw [hlen] at hrun
  rw [hpattern] at hframes
  exact ⟨_, hrun, hdelivered.frVal.trans hpattern, hframes⟩

end Sys2Proof.Machine
end

section
/-! The statements about the encodings: a command word is its fields, each operand has one code, and from these the
decoder and the encoder are inverse to each other and the legal words are those that decode. -/

namespace Sys2Proof

/-! ## Operands of a command word (30_encoding.md R91, R93, R94) -/

theorem direction_ofMod_eq_some {m : BitVec 2} {dir : Direction} :
    Direction.ofMod m = some dir ↔ m = 0#1 ++ dir.bit := by
  revert m
  cases dir <;> decide

theorem ackPolicy_ofMod_eq_some {m : BitVec 2} {p : AckPolicy} :
    AckPolicy.ofMod m = some p ↔ m = 0#1 ++ BitVec.ofBool p.bit := by
  revert m
  cases p <;> decide

/-- An encoded address leaves bit 7 clear. -/
theorem append_address_bit7 (a : BitVec 7) : (0#1 ++ a : Byte)[7] = false := by
  rw [BitVec.getElem_append]
  rfl

theorem append_address_low (a : BitVec 7) : (0#1 ++ a : Byte).extractLsb' 0 7 = a :=
  BitVec.extractLsb'_append_eq_right

/-- A byte whose bit 7 is clear is the encoding of the 7-bit address below it. -/
theorem eq_append_address {a0 : Byte} (h7 : a0.getLsbD 7 = false) : a0 = 0#1 ++ a0.extractLsb' 0 7 := by
  have htop : a0.extractLsb' 7 1 = 0#1 := by
    ext i hi
    obtain rfl : i = 0 := by omega
    simpa using h7
  have hsplit : a0.extractLsb' 7 1 ++ a0.extractLsb' 0 7 = a0 := BitVec.extractLsb'_append_extractLsb'
  rw [← htop, hsplit]

/-- A word whose fields are known is the word packed from them. -/
theorem packCmd_eq_of_fields {op : BitVec 4} {d : Bool} {rsv : BitVec 9} {m : BitVec 2} {a1 a0 : Byte} {w : Word}
    (hop : cmdOp w = op) (hd : cmdDefer w = d) (hz : cmdRsv w = rsv) (hm : cmdMod w = m) (h1 : cmdArg1 w = a1)
    (h0 : cmdArg0 w = a0) : packCmd op d rsv m a1 a0 = w := by
  subst hop hd hz hm h1 h0
  exact packCmd_fields w

theorem append_low (op : BitVec 4) (rest : BitVec 28) : (op ++ rest : Word).extractLsb' 0 28 = rest :=
  BitVec.extractLsb'_append_eq_right

/-- A word is its operation code and the 28 bits below it. -/
theorem cmdOp_append_rest (w : Word) : cmdOp w ++ w.extractLsb' 0 28 = w :=
  BitVec.extractLsb'_append_extractLsb'

/-! ## The command decoder and the encoder -/

/-- A command's encoding takes the decoder to the command's own row, whose checks pass (30_encoding.md R92, R94). -/
theorem decodeCmd_of_encode {i : Instr} {w : Word} (hi : i.wellFormed = true) (h : encode i = .command w) :
    decodeCmd w = .ok i := by
  cases i with
  | start d | rstart d | stop d | listen d =>
    cases h
    simp [decodeCmd, isReservedOp, decodePlain_ok]
  | saddr d dir a =>
    cases h
    simp [decodeCmd, isReservedOp, decodeSaddr_ok, direction_ofMod_eq_some.mpr rfl, append_address_bit7,
      append_address_low]
  | sbyte d b =>
    cases h
    simp [decodeCmd, isReservedOp, decodeSbyte_ok]
  | rbyte d p =>
    cases h
    simp [decodeCmd, isReservedOp, decodeRbyte_ok, ackPolicy_ofMod_eq_some.mpr rfl]
  | rddev peer dev =>
    cases h
    simp [decodeCmd, isReservedOp, decodeRddev_ok, append_address_bit7, append_address_low]
  | reservedOp op rest =>
    cases h
    have hop : isReservedOp op = true := hi
    simp [decodeCmd, cmdOp_append, hop, append_low]
  | _ => cases h

/-- The four commands without operands keep `OP` and `DEFER`, and the other fields are checked to be zero. -/
theorem encode_of_decodePlain {w : Word} {i j : Instr} (hz : cmdRsv w = 0#9) (hwf : j.wellFormed = true)
    (hj : encode j = .command (packCmd (cmdOp w) (cmdDefer w) 0#9 0#2 0#8 0#8)) (h : decodePlain w j = .ok i) :
    i.wellFormed = true ∧ encode i = .command w := by
  obtain ⟨hm, h1, h0, rfl⟩ := decodePlain_ok.mp h
  exact ⟨hwf, hj.trans (congrArg _ (packCmd_eq_of_fields rfl rfl hz hm h1 h0))⟩

/-- What decodes is well formed and encodes to the word: the checks of its row fix every field that the instruction does
not keep (30_encoding.md R94, R95). -/
theorem encode_of_decodeCmd {w : Word} {i : Instr} (h : decodeCmd w = .ok i) :
    i.wellFormed = true ∧ encode i = .command w := by
  rcases decodeCmd_eq w with ⟨hr, e⟩ | ⟨_, _, e⟩ | ⟨hz, ⟨hop, e⟩ | ⟨hop, e⟩ | ⟨hop, e⟩ | ⟨hop, e⟩ | ⟨hop, e⟩ |
    ⟨hop, e⟩ | ⟨hop, e⟩ | ⟨hop, e⟩⟩ <;> rw [e] at h
  · cases h
    exact ⟨hr, congrArg Code.command (cmdOp_append_rest w)⟩
  · cases h
  · exact encode_of_decodePlain hz rfl (by rw [hop]; rfl) h
  · exact encode_of_decodePlain hz rfl (by rw [hop]; rfl) h
  · exact encode_of_decodePlain hz rfl (by rw [hop]; rfl) h
  · obtain ⟨dir, hm, h1, h7, rfl⟩ := decodeSaddr_ok.mp h
    exact ⟨rfl, congrArg Code.command (packCmd_eq_of_fields hop rfl hz (direction_ofMod_eq_some.mp hm) h1
      (eq_append_address h7))⟩
  · obtain ⟨hm, h1, rfl⟩ := decodeSbyte_ok.mp h
    exact ⟨rfl, congrArg Code.command (packCmd_eq_of_fields hop rfl hz hm h1 rfl)⟩
  · obtain ⟨policy, hm, h1, h0, rfl⟩ := decodeRbyte_ok.mp h
    exact ⟨rfl, congrArg Code.command (packCmd_eq_of_fields hop rfl hz (ackPolicy_ofMod_eq_some.mp hm) h1 h0)⟩
  · exact encode_of_decodePlain hz rfl (by rw [hop]; rfl) h
  · obtain ⟨hd, hm, dev, h1, h7, rfl⟩ := decodeRddev_ok.mp h
    exact ⟨rfl, congrArg Code.command (packCmd_eq_of_fields hop hd hz hm (ofByte_eq_some.mp h1)
      (eq_append_address h7))⟩

/-! ## Events and received bytes (30_encoding.md R97, R117) -/

theorem decodeEvent_of_isOther {e : BusEvent} (h : e.isOther = true) : decodeEvent e = .evtOther e := by
  cases e with
  | slaveAddressedForWrite | slaveAddressedForRead | slaveByteReceivedAckSent | slaveByteSentAckReceived
  | slaveByteSentNackReceived | slaveStopOrRepeatedStartReceived | unhandled => cases h
  | _ => rfl

/-- The decoder reads an event's own index as the event's transition. -/
theorem decode_event_index (e : BusEvent) : decode (.event e.index) = .ok (decodeEvent e) := by
  simp [decode, ofIndex_index]

theorem classify_of_ne_start {b : Byte} (h : b ≠ startDelim) : classify b = .endClass ∨ classify b = .otherClass := by
  unfold classify
  rw [if_neg h]
  split
  · exact .inl rfl
  · exact .inr rfl

theorem decodeByte_outside {b : Byte} (h : b ≠ startDelim) : decodeByte .outside b = .rxbyteEXOut b := by
  rcases classify_of_ne_start h with hc | hc <;> simp [decodeByte, hc]

theorem decodeByte_full {b : Byte} (h : b ≠ startDelim) : decodeByte .full b = .rxbyteFull b := by
  rcases classify_of_ne_start h with hc | hc <;> simp [decodeByte, hc]

theorem decodeByte_capturing {b : Byte} (hs : b ≠ startDelim) (he : b ≠ endDelim) :
    decodeByte .capturing b = .rxbyteXIn b := by
  have hc : classify b = .otherClass := by simp [classify, hs, he]
  simp [decodeByte, hc]

theorem index_toNat_mem (e : BusEvent) : 1 ≤ e.index.toNat ∧ e.index.toNat ≤ 20 := by
  cases e <;> decide

/-! ## The legal words (30_encoding.md R94) -/

theorem direction_ofMod_isSome (m : BitVec 2) : (Direction.ofMod m).isSome = true ↔ m = 0#2 ∨ m = 1#2 := by
  revert m
  decide

theorem ackPolicy_ofMod_isSome (m : BitVec 2) : (AckPolicy.ofMod m).isSome = true ↔ m = 0#2 ∨ m = 1#2 := by
  revert m
  decide

theorem deviceId_ofByte_isSome (b : Byte) :
    (DeviceId.ofByte b).isSome = true ↔ b = 0x01#8 ∨ b = 0x02#8 ∨ b = 0x03#8 := by
  simp only [Option.isSome_iff_exists, ofByte_eq_some]
  constructor
  · rintro ⟨_ | _ | _, rfl⟩ <;> decide
  · rintro (rfl | rfl | rfl)
    exacts [⟨.motor, rfl⟩, ⟨.accelerometer, rfl⟩, ⟨.temperatureSensor, rfl⟩]

/-- The decoder answers one of the eight commands. -/
def IsCommand (r : Except DecodeError Instr) : Prop := ∃ i, r = .ok i ∧ ∀ op rest, i ≠ .reservedOp op rest

theorem isCommand_decodePlain {w : Word} {j : Instr} (hj : ∀ op rest, j ≠ .reservedOp op rest) :
    IsCommand (decodePlain w j) ↔ cmdMod w = 0#2 ∧ cmdArg1 w = 0#8 ∧ cmdArg0 w = 0#8 := by
  simp only [IsCommand, decodePlain_ok]
  constructor
  · rintro ⟨_, ⟨hm, h1, h0, _⟩, _⟩
    exact ⟨hm, h1, h0⟩
  · rintro ⟨hm, h1, h0⟩
    exact ⟨j, ⟨hm, h1, h0, rfl⟩, hj⟩

theorem isCommand_decodeSaddr {w : Word} :
    IsCommand (decodeSaddr w) ↔
      (cmdMod w = 0#2 ∨ cmdMod w = 1#2) ∧ cmdArg1 w = 0#8 ∧ (cmdArg0 w).getLsbD 7 = false := by
  simp only [IsCommand, decodeSaddr_ok, ← direction_ofMod_isSome, Option.isSome_iff_exists]
  constructor
  · rintro ⟨_, ⟨dir, hm, h1, h7, _⟩, _⟩
    exact ⟨⟨dir, hm⟩, h1, h7⟩
  · rintro ⟨⟨dir, hm⟩, h1, h7⟩
    exact ⟨_, ⟨dir, hm, h1, h7, rfl⟩, nofun⟩

theorem isCommand_decodeSbyte {w : Word} : IsCommand (decodeSbyte w) ↔ cmdMod w = 0#2 ∧ cmdArg1 w = 0#8 := by
  simp only [IsCommand, decodeSbyte_ok]
  constructor
  · rintro ⟨_, ⟨hm, h1, _⟩, _⟩
    exact ⟨hm, h1⟩
  · rintro ⟨hm, h1⟩
    exact ⟨_, ⟨hm, h1, rfl⟩, nofun⟩

theorem isCommand_decodeRbyte {w : Word} :
    IsCommand (decodeRbyte w) ↔ (cmdMod w = 0#2 ∨ cmdMod w = 1#2) ∧ cmdArg1 w = 0#8 ∧ cmdArg0 w = 0#8 := by
  simp only [IsCommand, decodeRbyte_ok, ← ackPolicy_ofMod_isSome, Option.isSome_iff_exists]
  constructor
  · rintro ⟨_, ⟨policy, hm, h1, h0, _⟩, _⟩
    exact ⟨⟨policy, hm⟩, h1, h0⟩
  · rintro ⟨⟨policy, hm⟩, h1, h0⟩
    exact ⟨_, ⟨policy, hm, h1, h0, rfl⟩, nofun⟩

theorem isCommand_decodeRddev {w : Word} :
    IsCommand (decodeRddev w) ↔
      cmdDefer w = false ∧ cmdMod w = 0#2 ∧ (cmdArg1 w = 0x01#8 ∨ cmdArg1 w = 0x02#8 ∨ cmdArg1 w = 0x03#8) ∧
        (cmdArg0 w).getLsbD 7 = false := by
  simp only [IsCommand, decodeRddev_ok, ← deviceId_ofByte_isSome, Option.isSome_iff_exists]
  constructor
  · rintro ⟨_, ⟨hd, hm, dev, h1, h7, _⟩, _⟩
    exact ⟨hd, hm, ⟨dev, h1⟩, h7⟩
  · rintro ⟨hd, hm, ⟨dev, h1⟩, h7⟩
    exact ⟨_, ⟨hd, hm, dev, h1, h7, rfl⟩, nofun⟩

/-- A legal word has one of the eight used operation codes. -/
theorem isReservedOp_of_legal {w : Word} (h : Machine.LegalCommand w) : isReservedOp (cmdOp w) = false := by
  rcases h with ⟨_, ⟨hop | hop | hop | hop, _⟩ | ⟨hop, _⟩ | ⟨hop, _⟩ | ⟨hop, _⟩ | ⟨hop, _⟩⟩ <;> rw [hop] <;> rfl

theorem isCommand_decodeCmd (w : Word) : IsCommand (decodeCmd w) ↔ Machine.LegalCommand w := by
  rcases decodeCmd_eq w with ⟨hr, e⟩ | ⟨_, hz, e⟩ | ⟨hz, ⟨hop, e⟩ | ⟨hop, e⟩ | ⟨hop, e⟩ | ⟨hop, e⟩ | ⟨hop, e⟩ |
    ⟨hop, e⟩ | ⟨hop, e⟩ | ⟨hop, e⟩⟩ <;> rw [e]
  · refine iff_of_false ?_ fun hl => ?_
    · rintro ⟨_, hi, hne⟩
      cases hi
      exact hne _ _ rfl
    · simp [isReservedOp_of_legal hl] at hr
  · exact iff_of_false nofun fun hl => hz hl.1
  · simp [isCommand_decodePlain, Machine.LegalCommand, hz, hop]
  · simp [isCommand_decodePlain, Machine.LegalCommand, hz, hop]
  · simp [isCommand_decodePlain, Machine.LegalCommand, hz, hop]
  · simp [isCommand_decodeSaddr, Machine.LegalCommand, hz, hop]
  · simp [isCommand_decodeSbyte, Machine.LegalCommand, hz, hop]
  · simp [isCommand_decodeRbyte, Machine.LegalCommand, hz, hop]
  · simp [isCommand_decodePlain, Machine.LegalCommand, hz, hop]
  · simp [isCommand_decodeRddev, Machine.LegalCommand, hz, hop]

/-! ## The statements -/

/-- Settles O1: the three kinds of input in turn. -/
theorem decodeOfEncode : Obligations.DecodeOfEncode := by
  intro i hi
  cases i with
  | start | rstart | stop | saddr | sbyte | rbyte | listen | rddev | reservedOp => exact decodeCmd_of_encode hi rfl
  | rxbyte | rxbyteSOut | rxbyteSIn | rxbyteEIn => rfl
  | rxbyteEXOut b => exact congrArg Except.ok (decodeByte_outside (by simpa [Instr.wellFormed] using hi))
  | rxbyteFull b => exact congrArg Except.ok (decodeByte_full (by simpa [Instr.wellFormed] using hi))
  | rxbyteXIn b =>
    obtain ⟨hs, he⟩ : b ≠ startDelim ∧ b ≠ endDelim := by simpa [Instr.wellFormed] using hi
    exact congrArg Except.ok (decodeByte_capturing hs he)
  | evtOther e => exact (decode_event_index e).trans (congrArg Except.ok (decodeEvent_of_isOther hi))
  | _ => exact decode_event_index _

/-- Settles O2: the checks of the decoded row and the operands the instruction keeps make up all the fields. -/
theorem encodeOfDecodedCommand : Obligations.EncodeOfDecodedCommand :=
  fun _ _ h => encode_of_decodeCmd h

/-- Settles O3: the decoder of each operation code makes exactly the checks of its row of the table. -/
theorem legalWordsDecode : Obligations.LegalWordsDecode := isCommand_decodeCmd

/-- Settles O4: each word is the encoding of the instruction it stands for. -/
theorem writtenOutWordsDecode : Obligations.WrittenOutWordsDecode :=
  ⟨decodeOfEncode (.start true) rfl, decodeOfEncode (.rstart false) rfl, decodeOfEncode (.stop false) rfl,
    decodeOfEncode (.saddr false .read 0x20#7) rfl, decodeOfEncode (.sbyte true 0xAA#8) rfl,
    decodeOfEncode (.rbyte false .ack) rfl, decodeOfEncode (.listen true) rfl,
    decodeOfEncode (.rddev 0x20#7 .accelerometer) rfl, decodeOfEncode .evtSlaveAddressedForRead rfl,
    decodeOfEncode .rxbyteEIn rfl⟩

/-- Settles O5: the decoder of indices is inverse to the index, and no event has an index outside 1 to 20. -/
theorem eventIndices : Obligations.EventIndices := by
  refine ⟨by decide, ofIndex_index, fun ix hix => ?_⟩
  refine List.find?_eq_none.mpr fun e _ he => ?_
  have hrange := index_toNat_mem e
  rw [eq_of_beq he] at hrange
  omega

/-- Settles O11: the arm of `exec` for a reserved code is the write of `InvalidOperation` to `RES`. -/
theorem reservedOpIsInvalid : Obligations.ReservedOpIsInvalid := fun _ _ _ => rfl

end Sys2Proof
end

section
/-! The statements about the Bus Transaction Engine: what the status decode answers, what the node's step does on a word in
`CMD`, in a blocking wait and at a completion, and from these the contract of the primitives (40_bus_engine.md). -/

namespace Sys2Proof

/-! ## The status decode (40_bus_engine.md R121) -/

theorem decodeStatus_unlisted {c : Config} {code : BitVec 5} (h : ∀ r ∈ c.statusTable, r.code ≠ code) :
    decodeStatus c code = .unhandled := by
  have hnone : c.statusTable.find? (fun r => r.code == code) = none := by simpa using h
  simp [decodeStatus, hnone]

/-- A table lists no code twice, so the row that the search finds for a listed code is the row given. -/
theorem decodeStatus_listed {c : Config} (hc : c.wf) {r : StatusRow} (hr : r ∈ c.statusTable) :
    decodeStatus c r.code = r.event := by
  unfold decodeStatus
  split
  case h_1 found hfound =>
    have hcode : found.code = r.code := by simpa using List.find?_some hfound
    rw [List.inj_on_of_nodup_map hc.1 (List.mem_of_find?_eq_some hfound) hr hcode]
  case h_2 hnone => exact absurd (beq_self_eq_true r.code) (List.find?_eq_none.mp hnone r hr)

theorem statusCode_append (code : BitVec 5) (low : BitVec 3) : statusCode (code ++ low) = code :=
  BitVec.extractLsb'_append_eq_left

/-- Settles O6: the search of a table without repeated codes, and a row's event is never `Unhandled`. -/
theorem statusDecodeByTable : Obligations.StatusDecodeByTable := by
  intro c hc
  refine ⟨fun r hr => decodeStatus_listed hc hr, fun code h => decodeStatus_unlisted h, ?_, ?_⟩
  · rintro _ hun r hr rfl
    exact hc.2 r hr ((decodeStatus_listed hc hr).symm.trans hun)
  · rintro s code low rfl hstat
    rw [Machine.State.busEvent, hstat, statusCode_append]

end Sys2Proof

namespace Sys2Proof.Machine

/-! ## The step as the head of the schedule -/

theorem step_of_agenda_nil {s : State} (h : s.agenda = []) : step s = nodeStep s := by
  simp [step, machineStep, h]

theorem step_of_agenda_cons {s : State} {m : Move} {rest : List Move} (h : s.agenda = m :: rest) :
    step s = performMove m { s with agenda := rest } := by
  simp [step, machineStep, h]

/-- A move other than the node's is the one a step takes exactly when it heads the schedule. -/
theorem headD_node_eq_iff {l : List Move} {m : Move} (hm : m ≠ .node) : l.headD .node = m ↔ l.head? = some m := by
  cases l with
  | nil => simp [hm.symm]
  | cons => simp

/-! ## The node's step, by what the foreground can do (40_bus_engine.md R123, R137) -/

theorem nodeStep_of_command {s : State} {w : Word} (hi : s.port.irq = false) (hb : s.fg.busy = false)
    (hc : s.fg.cmd = some w) : nodeStep s = acceptCommand w s.takeCommand := by
  simp [nodeStep, foregroundStep, hi, hb, hc]

theorem nodeStep_of_wait {s : State} (hi : s.port.irq = false) (hb : s.fg.busy = true) (hd : s.port.done = false) :
    nodeStep s = .next s := by
  simp [nodeStep, foregroundStep, hi, hb, hd]

theorem nodeStep_of_completion {s : State} (h : AtCompletion s) : nodeStep s = mdpComplete s.busEvent s := by
  obtain ⟨hi, hb, hd⟩ := h
  simp [nodeStep, foregroundStep, hi, hb, hd]

theorem mdpComplete_idle {s : State} (e : BusEvent) (hm : s.fg.mstep = .idle) :
    mdpComplete e s = .next (s.finishCommand e) := by
  simp [mdpComplete, hm]

/-! ## The acceptance of a word -/

theorem acceptCommand_of_decode {w : Word} {i : Instr} (h : decodeCmd w = .ok i) (s : State) :
    acceptCommand w s = exec i s := by
  simp [acceptCommand, h]

/-- A word with a reserved operation code is no word of RDDEV, so it is answered as an illegal word of a used code is. -/
theorem rejectCommand_of_isReservedOp {w : Word} (h : isReservedOp (cmdOp w) = true) (s : State) :
    s.rejectCommand w = s.setRes resInvalid := by
  have hop : cmdOp w ≠ 0x8#4 := fun h8 => by simp [h8, isReservedOp] at h
  simp [State.rejectCommand, State.setRes, hop]

/-- Every word that is not legal is answered by `InvalidOperation`, one with a reserved operation code by the execution of
its row, any other because the decoder rejects it (40_bus_engine.md R136). -/
theorem acceptCommand_of_not_legal {w : Word} (h : ¬ LegalCommand w) (s : State) :
    acceptCommand w s = .next (s.rejectCommand w) := by
  cases hd : decodeCmd w with
  | error err => simp [acceptCommand, hd]
  | ok i =>
    obtain ⟨op, rest, rfl⟩ : ∃ op rest, i = .reservedOp op rest := by
      by_contra hne
      exact h ((isCommand_decodeCmd w).mp ⟨i, hd, fun op rest hi => hne ⟨op, rest, hi⟩⟩)
    obtain ⟨hop, henc⟩ := encode_of_decodeCmd hd
    cases henc
    rw [acceptCommand_of_decode hd, rejectCommand_of_isReservedOp ((cmdOp_append op rest).symm ▸ hop)]
    rfl

/-- Settles O7: the foreground takes the word, and its acceptance is the execution of what the word decodes to. -/
theorem stepRunsAcceptedCommand : Obligations.StepRunsAcceptedCommand := by
  intro s w i rest hi hb hc hdec
  have hnode : ∀ l : List Move, nodeStep { s with agenda := l } =
      exec i { s with fg := { s.fg with cmd := none }, agenda := l } :=
    fun l => (nodeStep_of_command (s := { s with agenda := l }) hi hb hc).trans (acceptCommand_of_decode hdec _)
  exact ⟨fun ha => (step_of_agenda_nil ha).trans (hnode s.agenda),
    fun ha => (step_of_agenda_cons ha).trans (hnode rest)⟩

/-- Settles O12: `rejectCommand` after the word is taken, for a word of RDDEV with `RDOK` cleared. -/
theorem illegalWordIsInvalid : Obligations.IllegalWordIsInvalid := by
  intro s w hi hb hc hl
  rw [nodeStep_of_command hi hb hc, acceptCommand_of_not_legal hl]
  by_cases hop : cmdOp w = 0x8#4 <;> simp [State.rejectCommand, State.takeCommand, hop, resInvalid]

/-- Settles O13: at `MSTEP = 0` the completion is `finishCommand` of the decoded event. -/
theorem primitiveCompletes : Obligations.PrimitiveCompletes := by
  intro s hs hm
  rw [nodeStep_of_completion hs, mdpComplete_idle _ hm]
  rfl

/-! ## The blocking wait (40_bus_engine.md R123) -/

/-- In a blocking wait no interrupt is pending and `IEN` is 0, so the node has no step, a completion raises no interrupt,
and no other agent's move but a reset of the node touches the port or the foreground. -/
theorem performMove_of_wait {m : Move} {s t : State} (hs : MachineInv s) (hb : s.fg.busy = true)
    (hd : s.port.done = false) (hr : ∀ st, m ≠ .resetNode st) (h : performMove m s = .next t) :
    t.fg = s.fg ∧ t.port.irq = false ∧ (t.port.done = true ↔ ∃ st rx, m = .phy st rx) := by
  have hi : s.port.irq = false := by simpa [hd] using hs.port.irq_done
  cases m with
  | node =>
    cases (nodeStep_of_wait hi hb hd).symm.trans h
    exact ⟨rfl, hi, by simp [hd]⟩
  | writeCmd w =>
    cases h
    simp [State.writeCmd, hb, hi, hd]
  | phy st rx =>
    cases h
    simp [phyMove_eq, hd, hi, hs.wait.ien_of_busy hb]
  | rxByte b =>
    obtain ⟨_, _, rfl⟩ := hostStep_next h
    exact ⟨rfl, hi, by simp [hd]⟩
  | peripherals | resetHost =>
    cases h
    exact ⟨rfl, hi, by simp [hd]⟩
  | resetNode st => exact absurd rfl (hr st)

/-- Settles O14: the step is the move that heads the schedule, by `performMove_of_wait`. -/
theorem blockingWaitHolds : Obligations.BlockingWaitHolds := by
  intro s t hs hb hd hr h
  rw [step_eq_performMove] at h
  have hpopped : MachineInv { s with agenda := s.agenda.tail } := hs.of_node_kept rfl rfl rfl hs.host
  obtain ⟨hfg, hirq, hdone⟩ := performMove_of_wait hpopped hb hd (fun st => headD_node_ne nofun (hr st)) h
  exact ⟨hfg, hirq, hdone.trans (exists_congr fun _ => exists_congr fun _ => headD_node_eq_iff nofun)⟩

/-! ## A whole answered primitive (40_bus_engine.md R120) -/

theorem step_of_writeCmd {s : State} {w : Word} {rest : List Move} (hfree : ForegroundFree s)
    (ha : s.agenda = .writeCmd w :: rest) :
    step s = .next { s with fg := { s.fg with cmd := some w }, agenda := rest } := by
  obtain ⟨_, hb, hc⟩ := hfree
  simp [step_of_agenda_cons ha, performMove, State.writeCmd, hb, hc]

theorem step_of_phy {s : State} {st : Byte} {rx : Option Byte} {rest : List Move} (hd : s.port.done = false)
    (ha : s.agenda = .phy st rx :: rest) : step s = .next (State.phyComplete { s with agenda := rest } st rx) := by
  simp [step_of_agenda_cons ha, performMove, phyMove_eq, hd]

/-- A primitive written to a free node, accepted and answered: after three steps the state is the given one with the
primitive armed and completed. -/
theorem runSteps_answered_primitive {s : State} {w : Word} {i : Instr} {k : ArmKind} {a : Bool} {load : Option Byte}
    {d : Bool} {st : Byte} {rx : Option Byte} {rest : List Move} (hfree : ForegroundFree s) (hdec : decodeCmd w = .ok i)
    (hp : primitiveArm i = some (k, a, load, d)) (ha : s.agenda = .writeCmd w :: .node :: .phy st rx :: rest) (n : Nat) :
    runSteps (n + 3) s = runSteps n ((State.primitive { s with agenda := rest } k a load d).phyComplete st rx) := by
  obtain ⟨hi, hb, hc⟩ := hfree
  have haccept : step { s with fg := { s.fg with cmd := some w }, agenda := .node :: .phy st rx :: rest } =
      .next (State.primitive { s with agenda := .phy st rx :: rest } k a load d) := by
    have hexec := (stepRunsAcceptedCommand
      { s with fg := { s.fg with cmd := some w }, agenda := .node :: .phy st rx :: rest } w i _ hi hb rfl hdec).2 rfl
    rw [hexec, exec_of_primitiveArm hp]
    simp only [← hc]
  have hanswer : step (State.primitive { s with agenda := .phy st rx :: rest } k a load d) =
      .next ((State.primitive { s with agenda := rest } k a load d).phyComplete st rx) := by
    rw [step_of_phy (primitive_done ..) (primitive_agenda ..), primitive_eq, primitive_eq]
  rw [runSteps_succ _ (step_of_writeCmd ⟨hi, hb, hc⟩ ha), runSteps_succ _ haccept, runSteps_succ _ hanswer]

theorem step_of_primitive_completion {s : State} {rest : List Move} (hs : AtCompletion s) (hm : s.fg.mstep = .idle)
    (ha : s.agenda = .node :: rest) : step s = .next (State.finishCommand { s with agenda := rest } s.busEvent) := by
  rw [step_of_agenda_cons ha]
  exact (nodeStep_of_completion (s := { s with agenda := rest }) hs).trans (mdpComplete_idle _ hm)

/-- Settles O15: the deferred primitive is left by its completion with the interrupt raised; the blocking one takes the node
to `AtCompletion` at `MSTEP = 0`, where one more step returns the event. -/
theorem primitiveContract : Obligations.PrimitiveContract := by
  intro s w i k a load d st rx hs hfree hdec hp ha
  have ⟨hi, hb, _⟩ := hfree
  cases d with
  | true =>
    refine ⟨_, runSteps_answered_primitive hfree hdec hp ha 0, ?_⟩
    simp [hi, hb, resDeferred]
  | false =>
    have hreturn := step_of_primitive_completion (rest := [])
      (s := (State.primitive { s with agenda := [.node] } k a load false).phyComplete st rx)
      ⟨by simp [hi], by simp, by simp⟩ (by simpa using hs.fg.idle_of_not_busy hb) (by simp)
    refine ⟨_, (runSteps_answered_primitive hfree hdec hp ha 1).trans (runSteps_succ 0 hreturn), ?_⟩
    simp [hi, State.busEvent]

end Sys2Proof.Machine
end

section
/-! The statements about the Device Data Protocol, master role: what the completion of each sub-operation of RDDEV does, and
from these its run and its bus trace, whatever PHY answers (41_master_protocol.md). -/

namespace Sys2Proof.Machine

/-- Settles O19: the acceptance is the arm of START after the registers are cleared. -/
theorem rddevAccepted : Obligations.RddevAccepted := fun _ _ _ => rfl

/-! ## The completion of one sub-operation (41_master_protocol.md R152 to R157) -/

/-- Every byte but a Motor's is followed by another one. -/
theorem ne_motor_iff_ne_payLen (dev : DeviceId) : dev ≠ .motor ↔ 1 ≠ payLen dev := by cases dev <;> decide

theorem payLen_of_ne_motor {dev : DeviceId} (h : dev ≠ .motor) : payLen dev = 4 := by
  cases dev
  case motor => exact absurd rfl h
  case accelerometer | temperatureSensor => rfl

/-- A receive of the payload is inside `RDBUF` (20_memory.md R65). -/
theorem lt_four_of_lt_payLen {n : Nat} {dev : DeviceId} (h : n < payLen dev) : n < 4 := h.trans_le (payLen_le dev)

theorem mdpArmReceive_eq (i : Nat) (s : State) :
    mdpArmReceive i s =
      { s with
        port := armedPort s.port .rxData s.port.data (i + 1 ≠ payLen s.fg.dev) false
        fg := { s.fg with mstep := .recv } } := by
  have hack : (i + 1 != payLen s.fg.dev) = decide (i + 1 ≠ payLen s.fg.dev) := by simp [bne, beq_eq_decide]
  rw [mdpArmReceive, mdpArm_eq, hack]
  rfl

theorem mdpStop_eq (m : MStep) (e : BusEvent) (s : State) :
    mdpStop m e s =
      { s with
        port := armedPort s.port .stop s.port.data false false
        fg := { s.fg with mstep := m, evt := e } } :=
  mdpArm_eq m .stop false none _

/-- Settles O20: each of the five sub-operations goes on to its own arm of the table of R153. -/
theorem rddevAdvances : Obligations.RddevAdvances := by
  intro s hs he
  rw [nodeStep_of_completion hs]
  generalize s.busEvent = e at he
  cases hm : s.fg.mstep <;> rw [hm] at he <;> cases he
  case start | addrWrite | devByte | rstart => simp only [mdpComplete, hm, if_true, mdpArm_eq]; rfl
  case addrRead => simp only [mdpComplete, hm, if_true, mdpArmReceive_eq, ne_motor_iff_ne_payLen]

/-- The event expected at the position RDDEV waits at, in the receive loop that of byte `RDCNT` (R152). -/
def expectedEvent (f : Foreground) : Option BusEvent :=
  if f.mstep = .recv then some (mdpWant f.dev f.rdcnt.toNat) else expectedBeforeReceive f.mstep

theorem nodeStep_of_start_failed {s : State} (hs : AtCompletion s) (hm : s.fg.mstep = .start)
    (he : s.busEvent ≠ .startSent) : nodeStep s = .next (mdpAbort s.busEvent s) := by
  rw [nodeStep_of_completion hs]
  simp [mdpComplete, hm, he]

/-- Steps 2 to 6 have one answer to every unexpected event: the STOP is armed and the event kept (R156). -/
theorem nodeStep_of_mismatch {s : State} {want : BusEvent} (hs : AtCompletion s) (hm : s.fg.mstep ≠ .start)
    (hw : expectedEvent s.fg = some want) (he : s.busEvent ≠ want) :
    nodeStep s =
      .next { s with
        port := armedPort s.port .stop s.port.data false false
        fg := { s.fg with mstep := .stopFail, evt := s.busEvent } } := by
  rw [nodeStep_of_completion hs, ← mdpStop_eq]
  rw [expectedEvent] at hw
  cases hm' : s.fg.mstep <;> rw [hm'] at hw <;> cases hw
  case start => exact absurd hm' hm
  case addrWrite | devByte | rstart | addrRead => simp [mdpComplete, hm', he, mdpFail]
  case recv => simp [mdpComplete, hm', mdpByte, he, mdpFail]

/-- A byte before the last one is stored and counted, and the next receive armed (R155). -/
theorem nodeStep_of_byte {s : State} (hs : AtCompletion s) (hm : s.fg.mstep = .recv)
    (hi : s.fg.rdcnt.toNat + 1 < payLen s.fg.dev) (he : s.busEvent = .masterByteReceivedAckSent) :
    nodeStep s =
      .next (mdpArmReceive (s.fg.rdcnt.toNat + 1)
        (s.storeReceived (lt_four_of_lt_payLen (Nat.lt_of_succ_lt hi)))) := by
  have hlt : s.fg.rdcnt.toNat < 4 := lt_four_of_lt_payLen (Nat.lt_of_succ_lt hi)
  rw [nodeStep_of_completion hs, he]
  simp [mdpComplete, hm, mdpByte, mdpWant, hi.ne, writeBuf_of_lt _ _ hlt, State.storeReceived]

/-- The last byte is stored and counted, and the STOP armed (R155, R157). -/
theorem nodeStep_of_last_byte {s : State} (hs : AtCompletion s) (hm : s.fg.mstep = .recv)
    (hi : s.fg.rdcnt.toNat + 1 = payLen s.fg.dev) (he : s.busEvent = .masterByteReceivedNackSent) :
    nodeStep s =
      .next (mdpStop .stopOk .masterByteReceivedNackSent (s.storeReceived (lt_four_of_lt_payLen hi.le))) := by
  have hlt : s.fg.rdcnt.toNat < 4 := lt_four_of_lt_payLen hi.le
  rw [nodeStep_of_completion hs, he]
  simp [mdpComplete, hm, mdpByte, mdpWant, hi, writeBuf_of_lt _ _ hlt, State.storeReceived]

/-- The position of the STOP, by the verdict it was armed with (10_state.md R40). -/
def stopStep (ok : Bool) : MStep := if ok then .stopOk else .stopFail

/-- After its STOP, whatever the event, RDDEV returns the event kept (R156, R157). -/
theorem nodeStep_of_stop {s : State} {ok : Bool} (hs : AtCompletion s) (hm : s.fg.mstep = stopStep ok) :
    nodeStep s = .next (mdpReturn ok s) := by
  rw [nodeStep_of_completion hs]
  cases ok <;> simp [mdpComplete, hm, stopStep]

/-! ## The statements about one completion -/

/-- Settles O22: the invariant gives `RDOK = 0` while RDDEV is in progress, and `RDCNT = 0` before the receive loop. -/
theorem rddevMismatchStops : Obligations.RddevMismatchStops := by
  refine ⟨fun s want hinv hs hm hw he => ?_, fun s hinv hs hm he => ?_, fun s hinv hs hm => ?_⟩
  · have hidle : s.fg.mstep ≠ .idle := fun h => by simp [h, expectedBeforeReceive] at hw
    have hrecv : s.fg.mstep ≠ .recv := fun h => by simp [h, expectedBeforeReceive] at hw
    exact ⟨nodeStep_of_mismatch hs hm ((if_neg hrecv).trans hw) he, hinv.fg.rdok_of_step hidle,
      hinv.fg.rdcnt_early (by simp [hw])⟩
  · exact ⟨nodeStep_of_mismatch hs (by simp [hm]) (if_pos hm) he, hinv.fg.rdok_of_step (by simp [hm])⟩
  · have hok := hinv.fg.rdok_of_step (by simp [hm])
    refine ⟨(nodeStep_of_stop (ok := false) hs hm).trans ?_, hok⟩
    simp [mdpReturn, hok]

/-- Settles O24: the invariant fixes the event kept and the count at the STOP after the last byte. -/
theorem rddevReturnsSuccess : Obligations.RddevReturnsSuccess := by
  intro s hinv hs hm
  refine ⟨(nodeStep_of_stop (ok := true) hs hm).trans ?_, hinv.fg.stop_count hm⟩
  simp [mdpReturn, hinv.fg.stop_event hm, BusEvent.index]

theorem ofNat_toNat_add_one (x : BitVec 3) : x + 1#3 = BitVec.ofNat 3 (x.toNat + 1) := by simp [BitVec.ofNat_add]

/-- Settles O23: the buffer is `RDBUF` with the byte in `DATA` at its index. -/
theorem rddevReceivesBytes : Obligations.RddevReceivesBytes := by
  refine ⟨fun s hs hm he => ?_, ?_⟩
  · have hnext := rddevAdvances s hs (by rw [hm, he]; rfl)
    simpa only [hm, ne_motor_iff_ne_payLen] using hnext
  · rintro s _ hinv hs hm rfl
    have hlt : s.fg.rdcnt.toNat < 4 := lt_four_of_lt_payLen (hinv.fg.rdcnt_recv hm)
    have hbuf : ∀ j : Fin 4, (s.fg.rdbuf.set s.fg.rdcnt.toNat s.port.data hlt)[j] =
        if j.val = s.fg.rdcnt.toNat then s.port.data else s.fg.rdbuf[j] := fun j => by
      simp [Vector.getElem_set, eq_comm]
    refine ⟨fun hi he => ⟨_, hbuf, ?_⟩, fun hi he => ⟨_, hbuf, ?_⟩, fun he => ?_⟩
    · rw [nodeStep_of_byte hs hm hi he, mdpArmReceive_eq, ← ofNat_toNat_add_one]
      simp [State.storeReceived, hm]
    · rw [nodeStep_of_last_byte hs hm hi he, mdpStop_eq, ← ofNat_toNat_add_one]
      rfl
    · exact nodeStep_of_mismatch hs (by simp [hm]) (if_pos hm) he

/-! ## The node under the answers of PHY in turn -/

/-- The state with another port, other foreground registers and another schedule: what PHY and the foreground can change. -/
abbrev State.withNode (s : State) (p : Port) (f : Foreground) (l : List Move) : State :=
  { s with port := p, fg := f, agenda := l }

/-- The port after a completion (10_state.md R30). -/
def Port.answered (p : Port) (c : Completion) : Port :=
  { p.completionFlags with stat := c.st, data := c.rx.getD p.data }

/-- RDDEV waits for a completion: its arm is outstanding, in blocking mode, and `RDOK` is still 0 (41_master_protocol.md
R152, R153). -/
structure RddevWaiting (p : Port) (f : Foreground) : Prop where
  irq : p.irq = false
  ien : p.ien = false
  done : p.done = false
  busy : f.busy = true
  cmd : f.cmd = none
  rdok : f.rdok = false

/-- Answering with the completions in turn, the node stepping after each, takes the node from one port and foreground to
another. -/
def Answers (s : State) (ds : List Completion) (p : Port) (f : Foreground) (q : Port) (g : Foreground) : Prop :=
  ∀ (cs : List Completion) (n : Nat),
    runSteps (n + 2 * ds.length) (s.withNode p f (answerScript (ds ++ cs))) = runSteps n (s.withNode q g (answerScript cs))

section answers
variable {s : State} {c : Completion} {ds es : List Completion} {p q r : Port} {f g u : Foreground}

theorem Answers.nil : Answers s [] p f p f := fun _ _ => rfl

theorem Answers.append (h1 : Answers s ds p f q g) (h2 : Answers s es q g r u) : Answers s (ds ++ es) p f r u := by
  intro cs n
  rw [← h2 cs n, ← h1 (es ++ cs) (n + 2 * es.length), List.append_assoc, List.length_append]
  congr 1
  omega

theorem Answers.run (ha : Answers s ds p f q g) :
    runSteps (2 * ds.length) (s.withNode p f (answerScript ds)) = .next (s.withNode q g []) := by
  have hrun := ha [] 0
  rw [List.append_nil, Nat.zero_add] at hrun
  exact hrun

theorem RddevWaiting.answered_irq (hw : RddevWaiting p f) (c : Completion) : (p.answered c).irq = false := by
  simp [Port.answered, Port.completionFlags, hw.irq, hw.ien]

theorem RddevWaiting.atCompletion (hw : RddevWaiting p f) (c : Completion) (l : List Move) :
    AtCompletion (s.withNode (p.answered c) f l) :=
  ⟨hw.answered_irq c, hw.busy, rfl⟩

/-- The next blocking arm after a completion is waited for as the one before. -/
theorem RddevWaiting.rearm {k : ArmKind} {data : Byte} {a : Bool} (hw : RddevWaiting p f) (hb : g.busy = f.busy)
    (hc : g.cmd = f.cmd) (hok : g.rdok = f.rdok) : RddevWaiting (armedPort (p.answered c) k data a false) g where
  irq := hw.answered_irq c
  ien := rfl
  done := rfl
  busy := hb.trans hw.busy
  cmd := hc.trans hw.cmd
  rdok := hok.trans hw.rdok

theorem step_withNode (m : Move) (l : List Move) :
    step (s.withNode p f (m :: l)) = performMove m (s.withNode p f l) := rfl

/-- PHY completes the outstanding arm, then the node goes on from the completion. -/
theorem RddevWaiting.answers (hw : RddevWaiting p f)
    (hn : ∀ l, nodeStep (s.withNode (p.answered c) f l) = .next (s.withNode q g l)) : Answers s [c] p f q g := by
  intro cs n
  have hphy : step (s.withNode p f (.phy c.st c.rx :: .node :: answerScript cs)) =
      .next (s.withNode (p.answered c) f (.node :: answerScript cs)) := step_of_phy hw.done rfl
  have hnode : step (s.withNode (p.answered c) f (.node :: answerScript cs)) = .next (s.withNode q g (answerScript cs)) :=
    (step_withNode .node _).trans (hn _)
  exact (runSteps_succ (n + 1) hphy).trans (runSteps_succ n hnode)

/-- A node that waits for nothing and has nothing to do stays as it is. -/
theorem answers_of_idle (hi : p.irq = false) (hd : p.done = true) (hb : f.busy = false) (hc : f.cmd = none) :
    Answers s [c] p f p f := by
  intro cs n
  have hphy : step (s.withNode p f (.phy c.st c.rx :: .node :: answerScript cs)) =
      .next (s.withNode p f (.node :: answerScript cs)) := by
    simp [step_withNode, performMove, phyMove_eq, hd]
  have hnode : step (s.withNode p f (.node :: answerScript cs)) = .next (s.withNode p f (answerScript cs)) := by
    simp [step_withNode, performMove, nodeStep, foregroundStep, hi, hb, hc]
  exact (runSteps_succ (n + 1) hphy).trans (runSteps_succ n hnode)

end answers

/-! ## What RDDEV has sent and received -/

/-- The trace is the old one, records of the first `k` rows of the table of 41_master_protocol.md R153, then `tail`. -/
def SentRows (s : State) (peer : BitVec 7) (dev : DeviceId) (k : Nat) (tail trace : List ArmRecord) : Prop :=
  ∃ recs, trace = s.port.trace ++ recs ++ tail ∧ List.Forall₂ ArmRow.matches ((rddevRows peer dev).take k) recs

/-- The bytes counted are the given ones, stored from `RDBUF[0]` on; the rest of `RDBUF` is the old one
(41_master_protocol.md R155, R158). -/
structure ReceivedBytes (s : State) (bytes : List Byte) (cnt : BitVec 3) (buf : Vector Byte 4) : Prop where
  cnt_eq : cnt.toNat = bytes.length
  buf_eq : ∀ j : Fin 4, buf[j] = bytes[j.val]?.getD s.fg.rdbuf[j]

section progress
variable {s : State} {peer : BitVec 7} {dev : DeviceId}

theorem length_rddevRows : (rddevRows peer dev).length = 5 + payLen dev := by cases dev <;> rfl

theorem rddevRows_receive {n : Nat} (hn : n < payLen dev) :
    (rddevRows peer dev)[n + 5]? = some ⟨.rxData, n + 1 ≠ payLen dev, none⟩ := by
  cases dev <;> simp only [payLen] at hn <;> interval_cases n <;> rfl

theorem SentRows.arm {k : Nat} {row : ArmRow} {p : Port} (h : SentRows s peer dev k [] p.trace)
    (hrow : (rddevRows peer dev)[k]? = some row) :
    SentRows s peer dev (k + 1) [] (armedPort p row.kind (row.data.getD p.data) row.ack false).trace := by
  obtain ⟨recs, htrace, hrows⟩ := h
  have hmatch : row.matches ⟨row.kind, row.data.getD p.data, row.ack, false⟩ := ⟨rfl, rfl, rfl, fun b hb => by simp [hb]⟩
  refine ⟨recs ++ [⟨row.kind, row.data.getD p.data, row.ack, false⟩], by simp [armedPort, htrace], ?_⟩
  rw [List.take_add_one, hrow]
  exact List.rel_append hrows (.cons hmatch .nil)

theorem SentRows.stop {k : Nat} {p : Port} (h : SentRows s peer dev k [] p.trace) :
    ∃ r, isRddevStop r ∧ SentRows s peer dev k [r] (armedPort p .stop p.data false false).trace := by
  obtain ⟨recs, htrace, hrows⟩ := h
  exact ⟨⟨.stop, p.data, false, false⟩, ⟨rfl, rfl, rfl⟩, recs, by simp [armedPort, htrace], hrows⟩

theorem ReceivedBytes.store {bytes : List Byte} {cnt : BitVec 3} {buf : Vector Byte 4}
    (h : ReceivedBytes s bytes cnt buf) (hlt : cnt.toNat < 4) (b : Byte) :
    ReceivedBytes s (bytes ++ [b]) (cnt + 1#3) (buf.set cnt.toNat b hlt) where
  cnt_eq := by rw [toNat_add_one_of_lt (hlt.trans (by decide)), h.cnt_eq, List.length_append, List.length_singleton]
  buf_eq j := by
    have hold : buf[j.val] = bytes[j.val]?.getD s.fg.rdbuf[j] := h.buf_eq j
    have hcnt := h.cnt_eq
    rcases lt_trichotomy j.val bytes.length with hj | hj | hj
    · simp [hcnt, hj.ne', hold, List.getElem?_append_left hj]
    · simp [hcnt, hj]
    · have hnone : (bytes ++ [b])[j.val]? = none := by simp; omega
      simp [hcnt, hj.ne, hold, hj.le, hnone]

end progress

/-! ## RDDEV from one sub-operation to the next -/

/-- The position at which RDDEV waits for the completion of row `i` of the table of 41_master_protocol.md R153, counted from
0: the rows from 5 on are the receives. -/
def rowStep : Nat → MStep
  | 0 => .start
  | 1 => .addrWrite
  | 2 => .devByte
  | 3 => .rstart
  | 4 => .addrRead
  | _ + 5 => .recv

/-- The event expected of row `i` of the table of 41_master_protocol.md R153, counted from 0. -/
def rowEvent (dev : DeviceId) : Nat → BusEvent
  | 0 => .startSent
  | 1 => .addressWriteAckReceived
  | 2 => .masterByteSentAck
  | 3 => .repeatedStartSent
  | 4 => .addressReadAckReceived
  | n + 5 => mdpWant dev n

/-- RDDEV waits for the completion of row `i`, with the rows up to it sent and the bytes of the completed receives stored. -/
structure RddevAt (s : State) (peer : BitVec 7) (dev : DeviceId) (i : Nat) (bytes : List Byte) (p : Port)
    (f : Foreground) : Prop where
  waiting : RddevWaiting p f
  peer_eq : f.peer = peer
  dev_eq : f.dev = dev
  mstep : f.mstep = rowStep i
  lt : i < 5 + payLen dev
  count : bytes.length = i - 5
  received : ReceivedBytes s bytes f.rdcnt f.rdbuf
  sent : SentRows s peer dev (i + 1) [] p.trace

/-- What RDDEV has found once it has sent `k` rows and will send no more: success exactly when the whole sequence was sent
and the event `e` it reports is the one expected of the last receive (41_master_protocol.md R156, R157; log 16). -/
structure RddevVerdict (dev : DeviceId) (k : Nat) (bytes : List Byte) (e : BusEvent) (ok : Bool) : Prop where
  le : k ≤ 5 + payLen dev
  ok_iff : ok = true ↔ k = 5 + payLen dev ∧ e = .masterByteReceivedNackSent
  count_ok : ok = true → bytes.length = payLen dev
  count_fail : ok = false → bytes.length < payLen dev

/-- RDDEV waits for the completion of its STOP, after `k` rows. -/
structure RddevStopping (s : State) (peer : BitVec 7) (dev : DeviceId) (ok : Bool) (k : Nat) (bytes : List Byte) (p : Port)
    (f : Foreground) : Prop where
  waiting : RddevWaiting p f
  mstep : f.mstep = stopStep ok
  two_le : 2 ≤ k
  verdict : RddevVerdict dev k bytes f.evt ok
  received : ReceivedBytes s bytes f.rdcnt f.rdbuf
  sent : ∃ r, isRddevStop r ∧ SentRows s peer dev k [r] p.trace

/-- RDDEV has returned the event `e` after `k` rows and `tail`, which is its STOP unless the start failed. -/
structure RddevReturned (s : State) (peer : BitVec 7) (dev : DeviceId) (k : Nat) (bytes : List Byte) (e : BusEvent)
    (tail : List ArmRecord) (p : Port) (f : Foreground) : Prop where
  irq : p.irq = false
  done : p.done = true
  busy : f.busy = false
  cmd : f.cmd = none
  mstep : f.mstep = .idle
  res : f.res = e.index
  verdict : RddevVerdict dev k bytes e f.rdok
  received : ReceivedBytes s bytes f.rdcnt f.rdbuf
  sent : SentRows s peer dev k tail p.trace
  ending : (tail = [] ∧ k = 1 ∧ f.rdok = false) ∨ (2 ≤ k ∧ ∃ r, tail = [r] ∧ isRddevStop r)

section steps
variable {s : State} {peer : BitVec 7} {dev : DeviceId} {c : Completion} {i k : Nat} {bytes : List Byte} {p : Port}
  {f : Foreground} {ok : Bool}

/-- The rows before the receives go on to the next row of the table. -/
theorem nodeStep_of_rowEvent {row : ArmRow} (hs : AtCompletion s) (hi : i < 5) (hm : s.fg.mstep = rowStep i)
    (he : s.busEvent = rowEvent s.fg.dev i) (hrow : (rddevRows s.fg.peer s.fg.dev)[i + 1]? = some row) :
    nodeStep s =
      .next { s with
        port := armedPort s.port row.kind (row.data.getD s.port.data) row.ack false
        fg := { s.fg with mstep := rowStep (i + 1) } } := by
  have hwant : expectedBeforeReceive s.fg.mstep = some s.busEvent := by
    rw [hm, he]
    interval_cases i <;> rfl
  have hnext := rddevAdvances s hs hwant
  rw [hm] at hnext
  rcases Nat.lt_or_eq_of_le (Nat.le_of_lt_succ hi) with hi | rfl
  · interval_cases i <;> cases hrow <;> exact hnext
  · rw [rddevRows_receive (n := 0) (payLen_pos _)] at hrow
    cases hrow
    simp only [rowStep, ne_motor_iff_ne_payLen] at hnext
    exact hnext

theorem RddevAt.expectedEvent_eq (h : RddevAt s peer dev i bytes p f) : expectedEvent f = some (rowEvent dev i) := by
  have hm := h.mstep
  match i with
  | 0 | 1 | 2 | 3 | 4 => simp [expectedEvent, hm, rowStep, rowEvent, expectedBeforeReceive]
  | n + 5 =>
    have hcnt : f.rdcnt.toNat = n := by rw [h.received.cnt_eq, h.count]; omega
    simp [expectedEvent, hm, rowStep, rowEvent, h.dev_eq, hcnt]

theorem RddevAt.advance (h : RddevAt s peer dev i bytes p f) (hi : i < 5) (he : c.event s.cfg = rowEvent dev i) :
    ∃ q g, RddevAt s peer dev (i + 1) bytes q g ∧ Answers s [c] p f q g := by
  obtain ⟨hw, rfl, rfl, hm, _, hcount, hrec, hsent⟩ := h
  have hlt : i + 1 < 5 + payLen f.dev := by have := payLen_pos f.dev; omega
  obtain ⟨row, hrow⟩ : ∃ row, (rddevRows f.peer f.dev)[i + 1]? = some row :=
    ⟨_, List.getElem?_eq_getElem (length_rddevRows.symm ▸ hlt)⟩
  exact ⟨_, { f with mstep := rowStep (i + 1) },
    ⟨hw.rearm rfl rfl rfl, rfl, rfl, rfl, hlt, by omega, hrec, SentRows.arm (p := p.answered c) hsent hrow⟩,
    hw.answers fun l => nodeStep_of_rowEvent (hw.atCompletion c l) hi hm he hrow⟩

/-- A receive before the last one goes on to the next receive. -/
theorem RddevAt.receive {n : Nat} (h : RddevAt s peer dev (n + 5) bytes p f) (hn : n + 1 < payLen dev)
    (he : c.event s.cfg = rowEvent dev (n + 5)) :
    ∃ q g, RddevAt s peer dev (n + 5 + 1) (bytes ++ [c.rx.getD p.data]) q g ∧ Answers s [c] p f q g := by
  obtain ⟨hw, rfl, rfl, hm, _, hcount, hrec, hsent⟩ := h
  obtain rfl : f.rdcnt.toNat = n := by rw [hrec.cnt_eq, hcount]; omega
  have hack : c.event s.cfg = .masterByteReceivedAckSent := he.trans (if_neg hn.ne)
  have hlt : f.rdcnt.toNat < 4 := lt_four_of_lt_payLen (Nat.lt_of_succ_lt hn)
  have hrow := rddevRows_receive (peer := f.peer) hn
  have hsent' := SentRows.arm (p := p.answered c) hsent hrow
  refine ⟨_, { f with rdbuf := f.rdbuf.set f.rdcnt.toNat (c.rx.getD p.data) hlt, rdcnt := f.rdcnt + 1#3, mstep := .recv },
    ⟨hw.rearm rfl rfl rfl, rfl, rfl, rfl, by omega, by simp [hcount], hrec.store hlt _, hsent'⟩,
    hw.answers fun l => ?_⟩
  exact (nodeStep_of_byte (hw.atCompletion c l) hm hn hack).trans (congrArg _ (mdpArmReceive_eq _ _))

/-- The last receive goes on to the STOP of success. -/
theorem RddevAt.receive_last {n : Nat} (h : RddevAt s peer dev (n + 5) bytes p f) (hn : n + 1 = payLen dev)
    (he : c.event s.cfg = rowEvent dev (n + 5)) :
    ∃ q g, RddevStopping s peer dev true (n + 5 + 1) (bytes ++ [c.rx.getD p.data]) q g ∧ Answers s [c] p f q g := by
  obtain ⟨hw, rfl, rfl, hm, _, hcount, hrec, hsent⟩ := h
  obtain rfl : f.rdcnt.toNat = n := by rw [hrec.cnt_eq, hcount]; omega
  have hnack : c.event s.cfg = .masterByteReceivedNackSent := he.trans (if_pos hn)
  have hlt : f.rdcnt.toNat < 4 := lt_four_of_lt_payLen hn.le
  have hverdict : RddevVerdict f.dev (f.rdcnt.toNat + 5 + 1) (bytes ++ [c.rx.getD p.data]) .masterByteReceivedNackSent
      true := ⟨by omega, by simp; omega, fun _ => by simp [hcount, hn], nofun⟩
  refine ⟨_, { f with
      rdbuf := f.rdbuf.set f.rdcnt.toNat (c.rx.getD p.data) hlt
      rdcnt := f.rdcnt + 1#3
      mstep := .stopOk
      evt := .masterByteReceivedNackSent },
    ⟨hw.rearm rfl rfl rfl, rfl, by omega, hverdict, hrec.store hlt _, SentRows.stop (p := p.answered c) hsent⟩,
    hw.answers fun l => ?_⟩
  exact (nodeStep_of_last_byte (hw.atCompletion c l) hm hn hnack).trans (congrArg _ (mdpStop_eq _ _ _))

/-- A mismatch after the start goes on to the STOP of failure. -/
theorem RddevAt.mismatch (h : RddevAt s peer dev i bytes p f) (hi : i ≠ 0) (he : c.event s.cfg ≠ rowEvent dev i) :
    ∃ q g, RddevStopping s peer dev false (i + 1) bytes q g ∧ Answers s [c] p f q g := by
  have hwant := h.expectedEvent_eq
  obtain ⟨hw, rfl, rfl, hm, hlt, hcount, hrec, hsent⟩ := h
  have hstart : f.mstep ≠ .start := by
    rw [hm]
    match i, hi with
    | 1, _ | 2, _ | 3, _ | 4, _ | _ + 5, _ => nofun
  have hlast : i + 1 = 5 + payLen f.dev → c.event s.cfg ≠ .masterByteReceivedNackSent := fun hl hnack => by
    obtain ⟨n, rfl⟩ : ∃ n, i = n + 5 := ⟨i - 5, by have := payLen_pos f.dev; omega⟩
    exact he (hnack.trans (if_pos (by omega)).symm)
  have hverdict : RddevVerdict f.dev (i + 1) bytes (c.event s.cfg) false :=
    ⟨hlt, by simpa using hlast, nofun, fun _ => by have := payLen_pos f.dev; omega⟩
  exact ⟨_, { f with mstep := .stopFail, evt := c.event s.cfg },
    ⟨hw.rearm rfl rfl rfl, rfl, by omega, hverdict, hrec, SentRows.stop (p := p.answered c) hsent⟩,
    hw.answers fun l => nodeStep_of_mismatch (hw.atCompletion c l) hstart hwant he⟩

/-- A failed start is returned at once (R154). -/
theorem RddevAt.start_failed (h : RddevAt s peer dev 0 bytes p f) (he : c.event s.cfg ≠ .startSent) :
    RddevReturned s peer dev 1 bytes (c.event s.cfg) [] (p.answered c)
        { f with res := (c.event s.cfg).index, mstep := .idle, busy := false } ∧
      Answers s [c] p f (p.answered c) { f with res := (c.event s.cfg).index, mstep := .idle, busy := false } := by
  obtain ⟨hw, rfl, rfl, hm, _, hcount, hrec, hsent⟩ := h
  have hpos := payLen_pos f.dev
  have hverdict : RddevVerdict f.dev 1 bytes (c.event s.cfg) f.rdok :=
    ⟨by omega, by simp [hw.rdok]; omega, by simp [hw.rdok], fun _ => by omega⟩
  exact ⟨⟨hw.answered_irq c, rfl, rfl, hw.cmd, rfl, rfl, hverdict, hrec, hsent, .inl ⟨rfl, rfl, hw.rdok⟩⟩,
    hw.answers fun l => nodeStep_of_start_failed (hw.atCompletion c l) hm he⟩

/-- RDDEV returns after its STOP, whatever the STOP's event (R156, R157). -/
theorem RddevStopping.returns (h : RddevStopping s peer dev ok k bytes p f) :
    ∃ q g r, RddevReturned s peer dev k bytes f.evt [r] q g ∧ Answers s [c] p f q g := by
  obtain ⟨hw, hm, hk, hverdict, hrec, r, hr, hsent⟩ := h
  have hverdict : RddevVerdict dev k bytes f.evt (f.rdok || ok) := by simpa [hw.rdok] using hverdict
  exact ⟨_, { f with rdok := f.rdok || ok, res := f.evt.index, mstep := .idle, busy := false }, r,
    ⟨hw.answered_irq c, rfl, rfl, hw.cmd, rfl, rfl, hverdict, hrec, hsent,
      .inr ⟨hk, r, rfl, hr⟩⟩,
    hw.answers fun l => nodeStep_of_stop (hw.atCompletion c l) hm⟩

end steps

/-! ## A whole RDDEV -/

/-- Where RDDEV is, whatever PHY has answered so far. -/
inductive RddevPhase (s : State) (peer : BitVec 7) (dev : DeviceId) (p : Port) (f : Foreground) : Prop
  | sending {i : Nat} {bytes : List Byte} (h : RddevAt s peer dev i bytes p f)
  | stopping {ok : Bool} {k : Nat} {bytes : List Byte} (h : RddevStopping s peer dev ok k bytes p f)
  | returned {k : Nat} {bytes : List Byte} {e : BusEvent} {tail : List ArmRecord}
      (h : RddevReturned s peer dev k bytes e tail p f)

section runs
variable {s s1 t : State} {peer : BitVec 7} {dev : DeviceId} {cs : List Completion} {p : Port} {f : Foreground}

/-- The expected event takes RDDEV to the next row, after the last receive to its STOP. -/
theorem RddevAt.expected_answer {i : Nat} {bytes : List Byte} {c : Completion} (h : RddevAt s peer dev i bytes p f)
    (he : c.event s.cfg = rowEvent dev i) : ∃ q g, RddevPhase s peer dev q g ∧ Answers s [c] p f q g := by
  rcases lt_or_ge i 5 with hi | hi
  · obtain ⟨q, g, hnext, ha⟩ := h.advance hi he
    exact ⟨q, g, .sending hnext, ha⟩
  · obtain ⟨n, rfl⟩ : ∃ n, i = n + 5 := ⟨i - 5, by omega⟩
    have hlt := h.lt
    rcases Nat.lt_or_eq_of_le (show n + 1 ≤ payLen dev by omega) with hn | hn
    · obtain ⟨q, g, hnext, ha⟩ := h.receive hn he
      exact ⟨q, g, .sending hnext, ha⟩
    · obtain ⟨q, g, hnext, ha⟩ := h.receive_last hn he
      exact ⟨q, g, .stopping hnext, ha⟩

/-- Any other event ends RDDEV, at the start without a STOP. -/
theorem RddevAt.unexpected_answer {i : Nat} {bytes : List Byte} {c : Completion} (h : RddevAt s peer dev i bytes p f)
    (he : c.event s.cfg ≠ rowEvent dev i) : ∃ q g, RddevPhase s peer dev q g ∧ Answers s [c] p f q g := by
  rcases Nat.eq_zero_or_pos i with rfl | hi
  · obtain ⟨hret, ha⟩ := h.start_failed he
    exact ⟨_, _, .returned hret, ha⟩
  · obtain ⟨q, g, hstop, ha⟩ := h.mismatch hi.ne' he
    exact ⟨q, g, .stopping hstop, ha⟩

/-- Each answer takes RDDEV to another phase, and leaves one that has returned as it is. -/
theorem RddevPhase.answer (h : RddevPhase s peer dev p f) (c : Completion) :
    ∃ q g, RddevPhase s peer dev q g ∧ Answers s [c] p f q g := by
  cases h with
  | @sending i _ h =>
    by_cases he : c.event s.cfg = rowEvent dev i
    · exact h.expected_answer he
    · exact h.unexpected_answer he
  | stopping h =>
    obtain ⟨q, g, _, hret, ha⟩ := h.returns
    exact ⟨q, g, .returned hret, ha⟩
  | returned h => exact ⟨p, f, .returned h, answers_of_idle h.irq h.done h.busy h.cmd⟩

theorem RddevPhase.run (h : RddevPhase s peer dev p f) (cs : List Completion) :
    ∃ q g, RddevPhase s peer dev q g ∧ Answers s cs p f q g := by
  induction cs generalizing p f with
  | nil => exact ⟨p, f, h, .nil⟩
  | cons c cs ih =>
    obtain ⟨q, g, h1, ha1⟩ := h.answer c
    obtain ⟨r, g', h2, ha2⟩ := ih h1
    exact ⟨r, g', h2, ha1.append ha2⟩

/-- The foreground registers after the acceptance of an RDDEV (R152). -/
def Foreground.acceptRddev (f : Foreground) (peer : BitVec 7) (dev : DeviceId) : Foreground :=
  { f with busy := true, rdok := false, rdcnt := 0#3, mstep := .start, peer := peer, dev := dev }

theorem exec_rddev_withNode (ha : s.agenda = answerScript cs) (he : exec (.rddev peer dev) s = .next s1) :
    s1 = s.withNode (armedPort s.port .start s.port.data false false) (s.fg.acceptRddev peer dev) (answerScript cs) := by
  rw [← ha]
  cases (rddevAccepted peer dev s).symm.trans he
  rfl

/-- Accepted by a free node, RDDEV waits for the completion of its START. -/
theorem rddevAt_start (hfree : ForegroundFree s) :
    RddevAt s peer dev 0 [] (armedPort s.port .start s.port.data false false) (s.fg.acceptRddev peer dev) := by
  obtain ⟨hi, _, hc⟩ := hfree
  have hsent : SentRows s peer dev 0 [] s.port.trace := ⟨[], by simp, .nil⟩
  exact ⟨⟨hi, rfl, rfl, rfl, hc, rfl⟩, rfl, rfl, rfl, Nat.add_pos_left (by decide) _, rfl, ⟨rfl, fun _ => rfl⟩,
    hsent.arm (row := ⟨.start, false, none⟩) rfl⟩

/-- An RDDEV that is over when PHY has answered has returned. -/
theorem rddevReturned_of_run (hfree : ForegroundFree s) (ha : s.agenda = answerScript cs)
    (hexec : exec (.rddev peer dev) s = .next s1) (hrun : runSteps (2 * cs.length) s1 = .next t)
    (hb : t.fg.busy = false) :
    ∃ k bytes e tail, RddevReturned s peer dev k bytes e tail t.port t.fg ∧ t = s.withNode t.port t.fg [] := by
  obtain rfl := exec_rddev_withNode ha hexec
  obtain ⟨q, g, hphase, hans⟩ := (RddevPhase.sending (rddevAt_start hfree)).run cs
  cases hans.run.symm.trans hrun
  cases hphase with
  | sending h => exact absurd h.waiting.busy (ne_true_of_eq_false hb)
  | stopping h => exact absurd h.waiting.busy (ne_true_of_eq_false hb)
  | returned h => exact ⟨_, _, _, _, h, rfl⟩

end runs

/-- Settles O21: the only completion is that of START, after which RDDEV returns. -/
theorem rddevStartFails : Obligations.RddevStartFails := by
  intro s s1 peer dev st rx hfree ha hexec he
  obtain rfl := exec_rddev_withNode (cs := [⟨st, rx⟩]) ha hexec
  obtain ⟨_, hans⟩ := (rddevAt_start (peer := peer) (dev := dev) hfree).start_failed (c := ⟨st, rx⟩) he
  refine hans.run.trans ?_
  simp [Port.answered, Port.completionFlags, armedPort, Foreground.acceptRddev, hfree.1, Completion.event]

theorem index_eq_iff {e e' : BusEvent} : e.index = e'.index ↔ e = e' :=
  ⟨fun h => Option.some.inj (by rw [← ofIndex_index e, h, ofIndex_index]), congrArg _⟩

/-- Settles O27: the records and the verdict of the RDDEV that returned. -/
theorem rddevTrace : Obligations.RddevTrace := by
  intro s s1 t peer dev cs _ hfree ha hexec hrun hb
  obtain ⟨k, bytes, e, tail, h, _⟩ := rddevReturned_of_run hfree ha hexec hrun hb
  obtain ⟨recs, htrace, hrows⟩ := h.sent
  have hres : t.fg.res = 0x0A#8 ↔ e = .masterByteReceivedNackSent := h.res ▸ index_eq_iff (e' := .masterByteReceivedNackSent)
  rw [length_rddevRows, hres]
  exact ⟨k, recs, tail, htrace, by rcases h.ending with ⟨_, hk, _⟩ | ⟨hk, _⟩ <;> omega, h.verdict.le, hrows, h.ending,
    h.verdict.ok_iff⟩

/-- Settles O28: the bytes received and the verdict of the RDDEV that returned. -/
theorem rddevResultRegisters : Obligations.RddevResultRegisters := by
  intro s s1 t peer dev cs _ hfree ha hexec hrun hb
  obtain ⟨k, bytes, e, tail, h, ht⟩ := rddevReturned_of_run hfree ha hexec hrun hb
  obtain ⟨hcnt, hbuf⟩ := h.received
  refine ⟨h.mstep, fun j hj => ?_, fun hok => ?_, fun hok => ?_, by rw [ht], by rw [ht], by rw [ht]⟩
  · rw [hbuf j, List.getElem?_eq_none (hcnt ▸ hj)]
    rfl
  · have hnack := (h.verdict.ok_iff.mp hok).2
    exact ⟨hcnt.trans (h.verdict.count_ok hok), h.res.trans (congrArg _ hnack)⟩
  · exact ⟨hcnt ▸ h.verdict.count_fail hok, e, h.res⟩

/-! ## A read that is answered as expected -/

section success
variable {s s1 : State} {peer : BitVec 7} {dev : DeviceId} {cs : List Completion} {bs : List Byte} {last : BusEvent}

/-- Expected answers before the last receive take RDDEV down the table, each receive with its byte. -/
theorem RddevAt.run {i : Nat} {bytes : List Byte} {p : Port} {f : Foreground} {ds : List Completion}
    (h : RddevAt s peer dev i bytes p f) (hlen : i + ds.length < 5 + payLen dev)
    (hev : ds.map (fun c => c.event s.cfg) = (List.range' i ds.length).map (rowEvent dev))
    (hrx : (ds.drop (5 - i)).map (fun c => c.rx) = bs.map some) :
    ∃ q g, RddevAt s peer dev (i + ds.length) (bytes ++ bs) q g ∧ Answers s ds p f q g := by
  induction ds generalizing i bytes bs p f with
  | nil =>
    obtain rfl : bs = [] := by simpa using hrx.symm
    exact ⟨p, f, by simpa using h, .nil⟩
  | cons c ds ih =>
    rw [List.length_cons] at hlen hev
    obtain ⟨he, hev⟩ := List.cons.inj (hev.trans (congrArg _ List.range'_succ))
    rcases lt_or_ge i 5 with hi | hi
    · obtain ⟨q, g, h1, ha1⟩ := h.advance hi he
      have hdrop : 5 - i = 5 - (i + 1) + 1 := by omega
      obtain ⟨q', g', h2, ha2⟩ := ih h1 (by omega) hev (by rwa [hdrop] at hrx)
      exact ⟨q', g', by rwa [List.length_cons, ← Nat.add_assoc, Nat.add_right_comm], ha1.append ha2⟩
    · obtain ⟨n, rfl⟩ : ∃ n, i = n + 5 := ⟨i - 5, by omega⟩
      rw [Nat.sub_eq_zero_of_le hi] at hrx
      obtain ⟨b, bs, rfl, hb, hbs⟩ := List.map_eq_cons_iff.mp hrx.symm
      obtain ⟨q, g, h1, ha1⟩ := h.receive (by omega) he
      have hbyte : c.rx.getD p.data = b := by simp [← hb]
      obtain ⟨q', g', h2, ha2⟩ := ih h1 (by omega) hev (by rw [Nat.sub_eq_zero_of_le (by omega)]; exact hbs.symm)
      refine ⟨q', g', ?_, ha1.append ha2⟩
      rw [hbyte, List.append_assoc] at h2
      rwa [List.length_cons, ← Nat.add_assoc, Nat.add_right_comm]

/-- Every sub-operation answered as expected and the STOP by any event: RDDEV returns success with the bytes received. -/
theorem rddev_succeeds (hfree : ForegroundFree s) (ha : s.agenda = answerScript cs)
    (hexec : exec (.rddev peer dev) s = .next s1)
    (hev : cs.map (fun c => c.event s.cfg) = (List.range (5 + payLen dev)).map (rowEvent dev) ++ [last])
    (hrx : ((cs.drop 5).take (payLen dev)).map (fun c => c.rx) = bs.map some) :
    ∃ q g tail, runSteps (2 * cs.length) s1 = .next (s.withNode q g []) ∧
      RddevReturned s peer dev (5 + payLen dev) bs .masterByteReceivedNackSent tail q g := by
  obtain rfl := exec_rddev_withNode ha hexec
  obtain ⟨n, hn⟩ : ∃ n, payLen dev = n + 1 := ⟨payLen dev - 1, by have := payLen_pos dev; omega⟩
  rw [hn, ← Nat.add_assoc, List.range_succ, List.map_append, List.append_assoc] at hev
  obtain ⟨ds, rest, rfl, hds, hrest⟩ := List.map_eq_append_iff.mp hev
  obtain ⟨c, _, rfl, hc, hrest⟩ := List.map_eq_cons_iff.mp hrest
  obtain ⟨d, _, rfl, _, hrest⟩ := List.map_eq_cons_iff.mp hrest
  obtain rfl := List.map_eq_nil_iff.mp hrest
  have hlen : ds.length = 5 + n := by simpa using congrArg List.length hds
  have hreceives : ((ds ++ [c, d]).drop 5).take (n + 1) = ds.drop 5 ++ [c] := by
    simp [List.drop_append, List.take_append, hlen]
  rw [hn, hreceives, List.map_append] at hrx
  obtain ⟨bs, _, rfl, hbs, hb⟩ := List.map_eq_append_iff.mp hrx.symm
  obtain ⟨b, rfl, hcb⟩ := List.map_eq_singleton_iff.mp hb
  obtain ⟨q, g, h1, ha1⟩ := (rddevAt_start (peer := peer) (dev := dev) hfree).run (ds := ds) (bs := bs) (by omega)
    (by rw [hds, hlen, List.range_eq_range']) hbs.symm
  obtain ⟨q', g', h2, ha2⟩ := RddevAt.receive_last (n := n) (c := c) (by simpa [hlen, Nat.add_comm] using h1) hn.symm
    (Nat.add_comm 5 n ▸ hc)
  obtain ⟨q'', g'', r, h3, ha3⟩ := h2.returns (c := d)
  have hbyte : c.rx.getD q.data = b := by simp [← hcb]
  rw [(h2.verdict.ok_iff.mp rfl).2, hbyte] at h3
  refine ⟨q'', g'', [r], ?_, ?_⟩
  · simpa using (ha1.append (ha2.append ha3)).run
  · rwa [hn, ← Nat.add_assoc, Nat.add_comm 5 n]

/-- After a success the trace is the whole sequence and the STOP. -/
theorem RddevReturned.whole_sequence {bytes : List Byte} {tail : List ArmRecord} {p : Port} {f : Foreground}
    (h : RddevReturned s peer dev (5 + payLen dev) bytes .masterByteReceivedNackSent tail p f) :
    f.rdok = true ∧ ∃ recs stop, p.trace = s.port.trace ++ recs ++ [stop] ∧
      List.Forall₂ ArmRow.matches (rddevRows peer dev) recs ∧ isRddevStop stop := by
  have hok := h.verdict.ok_iff.mpr ⟨rfl, rfl⟩
  obtain ⟨recs, htrace, hrows⟩ := h.sent
  rw [← length_rddevRows (peer := peer), List.take_length] at hrows
  rcases h.ending with ⟨_, _, hfail⟩ | ⟨_, stop, rfl, hstop⟩
  · simp [hok] at hfail
  · exact ⟨hok, recs, stop, htrace, hrows, hstop⟩

end success

/-- Settles O25: the one byte received is counted and stored, the other three of `RDBUF` are kept. -/
theorem rddevReadsMotor : Obligations.RddevReadsMotor := by
  intro s s1 peer cs b last hfree ha hexec hev hrx
  have hlen : cs.length = 7 := by simpa using congrArg List.length hev
  have hbytes : ((cs.drop 5).take (payLen .motor)).map (fun c => c.rx) = [b].map some := by
    obtain ⟨c, hc, hb⟩ := Option.bind_eq_some_iff.mp hrx
    simp [payLen, List.take_one, hc, hb]
  obtain ⟨q, g, tail, hrun, h⟩ := rddev_succeeds hfree ha hexec hev hbytes
  obtain ⟨hok, recs, stop, htrace, hrows, hstop⟩ := h.whole_sequence
  obtain ⟨hcnt, hbuf⟩ := h.received
  rw [hlen] at hrun
  exact ⟨_, recs, stop, hrun, h.busy, h.mstep, hok, BitVec.eq_of_toNat_eq hcnt, h.res, hbuf 0, hbuf 1, hbuf 2, hbuf 3,
    htrace, hrows, hstop, rfl, rfl⟩

/-- Settles O26: the four bytes received are those of the pattern in transfer order. -/
theorem rddevReadsFloat : Obligations.RddevReadsFloat := by
  intro s s1 peer dev cs v last hdev hfree ha hexec hev hrx
  have hlen : cs.length = 10 := by simpa using congrArg List.length hev
  have hevents : cs.map (fun c => c.event s.cfg) = (List.range (5 + payLen dev)).map (rowEvent dev) ++ [last] := by
    cases dev
    case motor => exact absurd rfl hdev
    case accelerometer | temperatureSensor => exact hev
  obtain ⟨q, g, tail, hrun, h⟩ := rddev_succeeds (bs := (wordBytes v).toList) hfree ha hexec hevents
    (by rw [payLen_of_ne_motor hdev]; exact hrx)
  obtain ⟨hok, recs, stop, htrace, hrows, hstop⟩ := h.whole_sequence
  obtain ⟨hcnt, hbuf⟩ := h.received
  have hword : g.rdbuf = wordBytes v := Vector.ext fun j hj => by
    interval_cases j
    exacts [hbuf 0, hbuf 1, hbuf 2, hbuf 3]
  rw [hlen] at hrun
  exact ⟨_, recs, stop, hrun, h.busy, h.mstep, hok, BitVec.eq_of_toNat_eq hcnt, h.res, rdval_of_wordBytes hword, htrace,
    hrows, hstop, rfl, rfl⟩

end Sys2Proof.Machine
end

section
/-! The statements about the slave handler: the transition of each BusEvent as an equation on the whole state, what an
invocation can do to the port and how often it calls a peripheral, who writes and who reads the slave registers, and the
document's slave read event by event (42_slave_protocol.md). -/

namespace Sys2Proof.Machine

/-! ## The dispatch (42_slave_protocol.md R171) -/

theorem nodeStep_of_irq {s : State} (hi : s.port.irq = true) : nodeStep s = handlerStep s := by
  simp [nodeStep, hi]

/-- Settles O8: the pending interrupt makes the node's step a handler invocation, which dispatches on the decoded event. -/
theorem stepRunsDecodedEvent : Obligations.StepRunsDecodedEvent := by
  rintro s _ rest hi rfl
  exact ⟨_, decode_event_index s.busEvent, fun ha => (step_of_agenda_nil ha).trans (nodeStep_of_irq hi),
    fun ha => (step_of_agenda_cons ha).trans (nodeStep_of_irq (s := { s with agenda := rest }) hi)⟩

/-! ## The transition of each event (42_slave_protocol.md R172 to R181) -/

/-- Entry to the handler, on the whole state (60_exceptions.md R225). -/
theorem enterHandler_eq (s : State) : s.enterHandler = { s with port := { s.port with irq := false, done := false } } :=
  rfl

/-- An arm action of the handler overwrites the `DONE` that entry cleared: only the cleared `IRQ` shows beside it. -/
theorem enterHandler_handlerArm_eq (s : State) (regs : SlaveRegs) (k : ArmKind) (a : Bool) (load : Option Byte) :
    { s.enterHandler with slave := regs }.handlerArm k a load =
      { s with
        port := armedPort { s.port with irq := false } k (load.getD s.port.data) a true
        slave := regs } :=
  handlerArm_eq _ k a load

/-- Settles O29: the arm of a receive after entry. -/
theorem addressedForWriteArmsReceive : Obligations.AddressedForWriteArmsReceive :=
  fun s => congrArg Host.Outcome.next (enterHandler_handlerArm_eq s s.slave .rxData true none)

/-- Settles O30: entry keeps `DATA`, which the transition reads. -/
theorem byteReceivedSetsDevice : Obligations.ByteReceivedSetsDevice := fun _ => rfl

/-- Settles O34: the arm of LISTEN after entry, with the cursor's two registers cleared. -/
theorem stopDiscardsCursor : Obligations.StopDiscardsCursor :=
  fun s => congrArg Host.Outcome.next
    (enterHandler_handlerArm_eq s { s.slave with svalid := false, soff := 0#3 } .listen true none)

/-- Settles O35: the three rows of ignored events are entry and return. -/
theorem ignoredEventsDoNothing : Obligations.IgnoredEventsDoNothing := by
  rintro s i (rfl | rfl | ⟨e, rfl⟩)
  · exact congrArg Host.Outcome.next (enterHandler_eq s)
  · exact congrArg Host.Outcome.next (enterHandler_eq s)
  · exact congrArg Host.Outcome.next (enterHandler_eq s)

/-! ### A read request (R174, R175, R181) -/

theorem exec_addressedForRead_of_noDevice {s : State} (h : DeviceId.ofByte s.slave.sdev = none) :
    exec .evtSlaveAddressedForRead s = .next s.enterHandler := by
  simp [exec, execEvtSlaveAddressedForRead, h]

theorem exec_addressedForRead_of_device {s : State} {dev : DeviceId} (h : s.slave.sdev = dev.code) :
    exec .evtSlaveAddressedForRead s =
      .next { s with
        port := armedPort { s.port with irq := false } .txData (snapshotBytes s.periph s.slave.snap dev)[0] false true
        slave := { s.slave with
          soff := 1#3
          svalid := true
          snap := snapshotBytes s.periph s.slave.snap dev
          perLog := s.slave.perLog ++ [perCallOf dev] } } := by
  have hdev : DeviceId.ofByte s.slave.sdev = some dev := ofByte_eq_some.mpr h
  simp only [exec, execEvtSlaveAddressedForRead, enterHandler_slave, hdev]
  exact congrArg Host.Outcome.next (enterHandler_handlerArm_eq s _ .txData false (some _))

/-- Settles O31: the snapshot is `snapshotBytes`, for a float the bytes that make its pattern again. -/
theorem addressedForReadSnapshots : Obligations.AddressedForReadSnapshots := by
  intro s dev h
  refine ⟨snapshotBytes s.periph s.slave.snap dev, perCallOf dev, ?_, exec_addressedForRead_of_device h⟩
  cases dev with
  | motor => exact ⟨rfl, by simp [snapshotBytes]⟩
  | accelerometer => exact ⟨rfl, (bytesWord_extractLsb' s.periph.accel).symm⟩
  | temperatureSensor => exact ⟨rfl, (bytesWord_extractLsb' s.periph.temp).symm⟩

/-! ### A byte sent (R176) -/

theorem moreBytes_iff {r : SlaveRegs} :
    r.moreBytes = true ↔ r.svalid = true ∧ ∃ dev : DeviceId, r.sdev = dev.code ∧ r.soff.toNat < payLen dev := by
  simp only [SlaveRegs.moreBytes, ← ofByte_eq_some]
  cases DeviceId.ofByte r.sdev <;> simp

theorem exec_byteSent_of_moreBytes {s : State} (h : s.slave.moreBytes = true) :
    exec .evtSlaveByteSentAckReceived s =
      .next { s with
        port := armedPort { s.port with irq := false } .txData
          (s.slave.snap[s.slave.soff.toNat]'(soff_lt_of_moreBytes h)) false true
        slave := { s.slave with soff := s.slave.soff + 1#3 } } := by
  simp only [exec, execEvtSlaveByteSentAckReceived, enterHandler_slave, h, if_true,
    readBuf_of_lt s.slave.snap (soff_lt_of_moreBytes h)]
  exact congrArg Host.Outcome.next (enterHandler_handlerArm_eq s _ .txData false (some _))

theorem exec_byteSent_of_noMoreBytes {s : State} (h : s.slave.moreBytes = false) :
    exec .evtSlaveByteSentAckReceived s = .next s.enterHandler := by
  simp [exec, execEvtSlaveByteSentAckReceived, h]

/-- Settles O33: the two cases are those of `moreBytes`. -/
theorem byteSentTransmitsNext : Obligations.ByteSentTransmitsNext := by
  refine fun s => ⟨fun dev i hv hd hi hlt => ?_, fun h => ?_⟩
  · have hmore : s.slave.moreBytes = true := moreBytes_iff.mpr ⟨hv, dev, hd, hi ▸ hlt⟩
    rw [exec_byteSent_of_moreBytes hmore, ofNat_toNat_add_one]
    simp [hi]
  · refine exec_byteSent_of_noMoreBytes (Bool.eq_false_iff.mpr fun hmore => ?_)
    obtain ⟨hv, dev, hd, hlt⟩ := moreBytes_iff.mp hmore
    rcases h with hnone | hall
    · simp [hnone] at hv
    · exact absurd hlt (hall dev hd).not_gt

/-- Settles O32: no device is found in `SDEV`, so there are no bytes left either. -/
theorem readOfNoDeviceDoesNothing : Obligations.ReadOfNoDeviceDoesNothing := by
  intro s h1 h2 h3
  refine ⟨exec_addressedForRead_of_noDevice (by simp [DeviceId.ofByte, h1, h2, h3]),
    (byteSentTransmitsNext s).2 (.inr fun dev hd => ?_)⟩
  cases dev
  exacts [absurd hd h1, absurd hd h2, absurd hd h3]

/-! ## What an invocation does at most once (42_slave_protocol.md R171, R175, R182, R183) -/

/-- After an invocation the port is as entry leaves it, or deferred armed from there. -/
theorem HandlerMove.port_eq {s t : State} (h : HandlerMove s t) :
    t.port = s.port.entryFlags ∨ ∃ k data ack, t.port = armedPort s.port.entryFlags k data ack true := by
  cases h with
  | ignored | noDevice | noMoreBytes | newDevice => exact .inl rfl
  | armReceive | snapshot | nextByte | relisten => rw [handlerArm_eq]; exact .inr ⟨_, _, _, rfl⟩

/-- Only a snapshot calls a peripheral. -/
theorem HandlerMove.perLog_eq {s t : State} (h : HandlerMove s t) :
    t.slave.perLog = s.slave.perLog ∨ ∃ call, t.slave.perLog = s.slave.perLog ++ [call] := by
  cases h with
  | ignored | noDevice | noMoreBytes | newDevice => exact .inl rfl
  | armReceive | nextByte | relisten => exact .inl (by simp)
  | snapshot dev => exact .inr ⟨perCallOf dev, by simp [takeSnapshot]⟩

/-- Settles O36: the frame of an invocation, the two forms of the port after it and its calls. -/
theorem handlerActsOnce : Obligations.HandlerActsOnce := by
  intro s t h
  have hmove := handlerStep_move h
  obtain ⟨hcfg, hfg, hhost, hperiph, _⟩ := handlerStep_next h
  refine ⟨hfg, hhost, hcfg, hperiph, ?_⟩
  rcases hmove.port_eq with hport | ⟨k, data, ack, hport⟩ <;> rw [hport]
  · exact ⟨rfl, rfl, rfl, id, .inl ⟨rfl, rfl⟩, hmove.perLog_eq⟩
  · exact ⟨rfl, rfl, rfl, fun _ => rfl, .inr ⟨_, rfl, rfl, rfl⟩, hmove.perLog_eq⟩

/-! ## The foreground does not read the slave registers (42_slave_protocol.md R186) -/

/-- The state with other slave registers. -/
abbrev State.withSlave (s : State) (regs : SlaveRegs) : State := { s with slave := regs }

/-- An answer with other slave registers in its next state; a stop as it is. -/
def answerWithSlave (regs : SlaveRegs) : Result → Result
  | .next t => .next (t.withSlave regs)
  | .fault r => .fault r
  | .refused r => .refused r

section reads
variable (regs : SlaveRegs) (s : State)

theorem mdpByte_withSlave (e : BusEvent) : mdpByte e (s.withSlave regs) = answerWithSlave regs (mdpByte e s) := by
  simp only [mdpByte]
  split
  · split
    · rfl
    · split <;> rfl
  · rfl

theorem mdpComplete_withSlave (e : BusEvent) :
    mdpComplete e (s.withSlave regs) = answerWithSlave regs (mdpComplete e s) := by
  simp only [mdpComplete]
  cases s.fg.mstep
  case recv => exact mdpByte_withSlave regs s e
  case idle | stopOk | stopFail => rfl
  case start | addrWrite | devByte | rstart | addrRead => dsimp only; split <;> rfl

theorem acceptCommand_withSlave (w : Word) :
    acceptCommand w (s.withSlave regs) = answerWithSlave regs (acceptCommand w s) := by
  unfold acceptCommand
  split
  case h_1 i hd =>
    rcases decodeCmd_cases hd with ⟨op, rest, rfl, _⟩ | ⟨k, a, load, d, hp, _⟩ | ⟨peer, dev, rfl⟩
    · rfl
    · simp only [exec_of_primitiveArm hp, primitive_eq, answerWithSlave]
    · rfl
  case h_2 => rfl

theorem foregroundStep_withSlave : foregroundStep (s.withSlave regs) = answerWithSlave regs (foregroundStep s) := by
  simp only [foregroundStep]
  split
  · split
    · exact mdpComplete_withSlave regs s s.busEvent
    · rfl
  · split
    · exact acceptCommand_withSlave regs s.takeCommand _
    · rfl

end reads

/-- The schedule gives the node a step when it is empty or headed by one (20_memory.md R71; log 2). -/
theorem node_heads_of_headD {l : List Move} (h : l.headD .node = .node) : l = [] ∨ l.head? = some .node := by
  cases l with
  | nil => exact .inl rfl
  | cons m l => exact .inr (congrArg some h)

/-- Settles O37: of all agents only the node and its reset write the slave registers, of the node's two contexts only the
handler, and the foreground's answer commutes with replacing them. -/
theorem slaveRegistersHaveOneWriter : Obligations.SlaveRegistersHaveOneWriter := by
  refine ⟨fun s t h hchanged => ?_, fun s t regs h => ?_⟩
  · rw [step_eq_performMove] at h
    by_cases hnode : s.agenda.headD .node = .node
    · rw [hnode] at h
      rcases nodeStep_cases h with ⟨hi, _⟩ | ⟨_, hf⟩
      · exact .inl ⟨hi, node_heads_of_headD hnode⟩
      · obtain ⟨_, hslave, _⟩ := (foregroundStep_move hf).frame
        exact absurd hslave hchanged
    · by_cases hreset : ∃ st, s.agenda.headD .node = .resetNode st
      · obtain ⟨st, hst⟩ := hreset
        exact .inr ⟨st, (headD_node_eq_iff (m := .resetNode st) nofun).mp hst⟩
      · exact absurd (performMove_slave hnode (not_exists.mp hreset) h) hchanged
  · exact (foregroundStep_withSlave regs s).trans (by rw [h]; rfl)

/-! ## The document's slave read (42_slave_protocol.md R185) -/

/-- The node waits for a completion that will raise the interrupt. -/
structure AwaitsInterrupt (p : Port) : Prop where
  ien : p.ien = true
  irq : p.irq = false
  done : p.done = false

/-- After `n` steps from `s`, with the completions `cs` still to come: the handler has added `recs` to `TRACE`, the slave
registers are `regs`, and the node awaits the next interrupt with the foreground registers untouched. -/
structure Served (s : State) (n : Nat) (cs : List Completion) (recs : List ArmRecord) (regs : SlaveRegs) (t : State) :
    Prop where
  run : ∀ m, runSteps (m + n) s = runSteps m t
  agenda : t.agenda = answerScript cs
  awaits : AwaitsInterrupt t.port
  cfg : t.cfg = s.cfg
  periph : t.periph = s.periph
  fg : t.fg = s.fg
  trace : t.port.trace = s.port.trace ++ recs
  slave : t.slave = regs

/-- The state in which the handler serves the completion `c`, with `cs` still to come. -/
def State.interrupted (t : State) (c : Completion) (cs : List Completion) : State :=
  State.phyComplete { t with agenda := answerScript cs } c.st c.rx

section served
variable {s t u : State} {n : Nat} {c : Completion} {cs : List Completion} {recs new : List ArmRecord} {regs : SlaveRegs}

theorem Served.refl (ha : s.agenda = answerScript cs) (hw : AwaitsInterrupt s.port) :
    Served s 0 cs [] s.slave s :=
  ⟨fun _ => rfl, ha, hw, rfl, rfl, rfl, by simp, rfl⟩

/-- A completion and the handler's answer to its event are two steps, after which the node awaits the next interrupt. -/
theorem Served.event {e : BusEvent} {regs' : SlaveRegs} (h : Served s n (c :: cs) recs regs t) (he : c.event s.cfg = e)
    (hexec : exec (decodeEvent e) (t.interrupted c cs) = .next u) (htrace : u.port.trace = t.port.trace ++ new)
    (hslave : u.slave = regs') : Served s (n + 2) cs (recs ++ new) regs' u := by
  have hirq : (t.interrupted c cs).port.irq = true := by simp [State.interrupted, h.awaits.ien]
  have hhandler : handlerStep (t.interrupted c cs) = .next u := by
    rw [← he, ← h.cfg] at hexec
    exact hexec
  have hphy : step t = .next (State.phyComplete { t with agenda := .node :: answerScript cs } c.st c.rx) :=
    step_of_phy h.awaits.done h.agenda
  have hnode : step (State.phyComplete { t with agenda := .node :: answerScript cs } c.st c.rx) = .next u :=
    (step_of_agenda_cons (m := .node) rfl).trans ((nodeStep_of_irq hirq).trans hhandler)
  obtain ⟨hcfg, hfg, _, hperiph, hagenda⟩ := handlerStep_next hhandler
  obtain ⟨_, _, _, _, _, hirq', hdone', hien', _⟩ := handlerActsOnce _ _ hhandler
  refine ⟨fun m => ?_, hagenda, ⟨hien' h.awaits.ien, hirq', hdone'⟩, hcfg.trans h.cfg, hperiph.trans h.periph,
    hfg.trans h.fg, by rw [htrace, h.trace, List.append_assoc], hslave⟩
  calc runSteps (m + (n + 2)) s = runSteps (m + 2 + n) s := by rw [Nat.add_left_comm, Nat.add_comm n]
    _ = runSteps (m + 2) t := h.run (m + 2)
    _ = runSteps m u := (runSteps_succ (m + 1) hphy).trans (runSteps_succ m hnode)

theorem Served.addressedForWrite (h : Served s n (c :: cs) recs regs t) (he : c.event s.cfg = .slaveAddressedForWrite) :
    ∃ u data, Served s (n + 2) cs (recs ++ [⟨.rxData, data, true, true⟩]) regs u :=
  ⟨_, _, h.event he (addressedForWriteArmsReceive _) rfl h.slave⟩

theorem Served.byteReceived {b : Byte} (h : Served s n (c :: cs) recs regs t)
    (he : c.event s.cfg = .slaveByteReceivedAckSent) (hrx : c.rx = some b) :
    ∃ u, Served s (n + 2) cs recs { regs with sdev := b, soff := 0#3 } u := by
  have hserved := h.event (new := []) he (byteReceivedSetsDevice _) (List.append_nil _).symm rfl
  rw [List.append_nil] at hserved
  simp only [State.interrupted, phyComplete_slave, phyComplete_data, hrx, Option.getD_some, h.slave] at hserved
  exact ⟨_, hserved⟩

theorem Served.addressedForRead {dev : DeviceId} (h : Served s n (c :: cs) recs regs t)
    (he : c.event s.cfg = .slaveAddressedForRead) (hdev : regs.sdev = dev.code) :
    ∃ u, Served s (n + 2) cs (recs ++ [⟨.txData, (snapshotBytes s.periph regs.snap dev)[0], false, true⟩])
      { regs with
        soff := 1#3
        svalid := true
        snap := snapshotBytes s.periph regs.snap dev
        perLog := regs.perLog ++ [perCallOf dev] } u := by
  obtain rfl := h.slave
  rw [← h.periph]
  exact ⟨_, h.event he (exec_addressedForRead_of_device hdev) rfl rfl⟩

theorem Served.byteSent (h : Served s n (c :: cs) recs regs t) (he : c.event s.cfg = .slaveByteSentAckReceived)
    (hmore : regs.moreBytes = true) :
    ∃ u, Served s (n + 2) cs
      (recs ++ [⟨.txData, regs.snap[regs.soff.toNat]'(soff_lt_of_moreBytes hmore), false, true⟩])
      { regs with soff := regs.soff + 1#3 } u := by
  obtain rfl := h.slave
  exact ⟨_, h.event he (exec_byteSent_of_moreBytes (s := t.interrupted c cs) hmore) rfl rfl⟩

theorem Served.stop (h : Served s n (c :: cs) recs regs t)
    (he : c.event s.cfg = .slaveStopOrRepeatedStartReceived) :
    ∃ u data, Served s (n + 2) cs (recs ++ [⟨.listen, data, true, true⟩]) { regs with svalid := false, soff := 0#3 } u := by
  obtain rfl := h.slave
  exact ⟨_, _, h.event he (stopDiscardsCursor _) rfl rfl⟩

end served

/-- Settles O39: the seven events in turn. The offset counts from 1 after the request to 4 after the third byte sent, below
the payload at each of the three. -/
theorem slaveReadSequence : Obligations.SlaveReadSequence := by
  intro s cs hien hirq hdone ha hev hrx
  simp only [List.map_eq_cons_iff, List.map_eq_nil_iff] at hev
  obtain ⟨c0, _, rfl, h0, c1, _, rfl, h1, c2, _, rfl, h2, c3, _, rfl, h3, c4, _, rfl, h4, c5, _, rfl, h5, c6, _, rfl, h6,
    rfl⟩ := hev
  obtain ⟨t0, d0, hs⟩ := (Served.refl ha ⟨hien, hirq, hdone⟩).addressedForWrite h0
  obtain ⟨t1, hs⟩ := hs.byteReceived h1 hrx
  obtain ⟨t2, hs⟩ := hs.addressedForRead (dev := .accelerometer) h2 rfl
  obtain ⟨t3, hs⟩ := hs.byteSent h3 rfl
  obtain ⟨t4, hs⟩ := hs.byteSent h4 rfl
  obtain ⟨t5, hs⟩ := hs.byteSent h5 rfl
  obtain ⟨t6, d1, hs⟩ := hs.stop h6
  have hslave := hs.slave
  exact ⟨t6, d0, d1, hs.run 0, hs.trace, by rw [hslave]; rfl, by rw [hslave], by rw [hslave], by rw [hslave], hs.fg⟩

end Sys2Proof.Machine
end

section
/-! The statements about the frame decoder: what each case of RXBYTE does in its own context, when the end delimiter emits
a frame, and what a whole RXBYTE can emit and store (43_frame_decoder.md). -/

namespace Sys2Proof.Machine

/-! ## The case of a delivered byte (43_frame_decoder.md R190, R197) -/

theorem context_of_outside {d : HostDecoder} (hf : d.fin = false) : d.context = .outside := by
  simp [HostDecoder.context, hf]

theorem context_of_full {d : HostDecoder} (hf : d.fin = true) (h6 : d.fcur = 6#3) : d.context = .full := by
  simp [HostDecoder.context, hf, h6]

theorem context_of_capturing {d : HostDecoder} (hf : d.fin = true) (h6 : d.fcur ≠ 6#3) : d.context = .capturing := by
  simp [HostDecoder.context, hf, h6]

theorem context_ne_outside {d : HostDecoder} (hf : d.fin = true) : d.context ≠ .outside := by
  by_cases h6 : d.fcur = 6#3
  · simp [context_of_full hf h6]
  · simp [context_of_capturing hf h6]

theorem step_of_rxByte {s : State} {b : Byte} {rest : List Move} (ha : s.agenda = .rxByte b :: rest) :
    step s = exec (decodeByte s.host.context b) { s with agenda := rest } :=
  step_of_agenda_cons ha

/-- Settles O9: the step is the case that the decoder's context selects, and `FIN` and `FCUR` give the context. -/
theorem stepRunsDeliveredByte : Obligations.StepRunsDeliveredByte := by
  intro s b rest ha
  have hstep := step_of_rxByte ha
  exact ⟨fun hf => ⟨rfl, context_of_outside hf ▸ hstep⟩, fun hf h6 => ⟨rfl, context_of_full hf h6 ▸ hstep⟩,
    fun hf h6 => ⟨rfl, context_of_capturing hf h6 ▸ hstep⟩⟩

/-- Settles O46: both sides put the answer of the whole RXBYTE back into the state. -/
theorem rxCasesAreRxByte : Obligations.RxCasesAreRxByte := fun s b => hostStep_eq b s

/-! ## Each case in its own context (43_frame_decoder.md R191 to R196) -/

/-- Settles O41: `enterFrame` for the start delimiter, `ignoreStray` for every other byte. -/
theorem rxOutsideFrame : Obligations.RxOutsideFrame := by
  intro s hf
  have hctx := context_of_outside hf
  exact ⟨if_pos hctx, fun b hb => if_pos ⟨hctx, hb⟩⟩

/-- Settles O42: `restartFrame` for the start delimiter, `dropFrame` for every other byte at a full buffer. -/
theorem rxRestartAndFull : Obligations.RxRestartAndFull := by
  intro s hf
  exact ⟨if_pos (context_ne_outside hf), fun b hb h6 => if_pos ⟨context_of_full hf h6, hb⟩⟩

/-- Inside a frame, a cursor below the end of the buffer has room for a byte. -/
theorem context_of_room {d : HostDecoder} (hf : d.fin = true) (hi : d.fcur.toNat < 6) : d.context = .capturing :=
  context_of_capturing hf fun h6 => by simp [h6] at hi

/-- A buffer after one write, slot by slot. -/
theorem getElem_set_fin {n k : Nat} (v : Vector Byte n) (b : Byte) (hk : k < n) (j : Fin n) :
    (v.set k b hk)[j] = if j.val = k then b else v[j] := by
  simp only [Fin.getElem_fin, Vector.getElem_set, eq_comm]

/-- Settles O43: `storeByte` at a cursor inside the buffer. -/
theorem rxStoresByte : Obligations.RxStoresByte := by
  intro s b hf hk hs he
  have hi : s.host.fcur.toNat < 6 := Nat.lt_succ_of_le hk
  have hcur : s.host.fcur + 1#3 = BitVec.ofNat 3 (s.host.fcur.toNat + 1) := by simp [BitVec.ofNat_add]
  refine ⟨s.host.fbuf.set s.host.fcur.toNat b hi, getElem_set_fin _ _ hi, ?_⟩
  have hstore : exec (.rxbyteXIn b) s = s.withHost (s.host.storeByte b) := if_pos ⟨context_of_room hf hi, hs, he⟩
  rw [hstore, storeByte_of_lt b hi, hcur]
  rfl

/-! ## The end delimiter (43_frame_decoder.md R195, R198 to R200) -/

theorem exec_endDelim {s : State} (hf : s.host.fin = true) (hi : s.host.fcur.toNat < 6) :
    exec .rxbyteEIn s =
      .next { s with
        host := ((frameOf (s.host.closeFrame hi).fbuf s.host.fcur.toNat).map (s.host.closeFrame hi).emit).getD
          (s.host.closeFrame hi) } := by
  have hclose : exec .rxbyteEIn s = s.withHost s.host.finalize := if_pos (context_of_room hf hi)
  rw [hclose, finalize_of_lt hi]
  rfl

/-- The device byte names a device and the length is its payload's (43_frame_decoder.md R198). -/
theorem frameOf_eq_some {buf : Vector Byte 6} {k : Nat} {f : Byte × Word} :
    frameOf buf k = some f ↔ ∃ dev, buf[0] = dev.code ∧ k = 1 + payLen dev ∧ (buf[0], frameValue buf dev) = f := by
  simp only [← ofByte_eq_some, frameOf]
  cases hd : DeviceId.ofByte buf[0] with
  | none => simp
  | some dev => simp [ofByte_eq_some.mp hd]

/-- The end delimiter after a whole payload is stored behind the bytes of the value. -/
theorem frameValue_set (buf : Vector Byte 6) (dev : DeviceId) (b : Byte) (hi : 1 + payLen dev < 6) :
    frameValue (buf.set (1 + payLen dev) b hi) dev = frameValue buf dev := by
  cases dev <;> simp [frameValue, payLen]

/-- The frame is valid by the bytes captured before the end delimiter (43_frame_decoder.md R198). -/
theorem frameOf_closeFrame_eq_some {d : HostDecoder} (hi : d.fcur.toNat < 6) {f : Byte × Word} :
    frameOf (d.closeFrame hi).fbuf d.fcur.toNat = some f ↔
      ∃ dev, d.fbuf[0] = dev.code ∧ d.fcur.toNat = 1 + payLen dev ∧ (d.fbuf[0], frameValue d.fbuf dev) = f := by
  rw [frameOf_eq_some]
  refine exists_congr fun dev => ?_
  rw [and_left_comm, and_left_comm (a := d.fbuf[0] = dev.code)]
  refine and_congr_right fun hk => ?_
  have hfirst : (d.closeFrame hi).fbuf[0] = d.fbuf[0] := Vector.getElem_set_ne hi (by decide) (by omega)
  have hvalue : frameValue (d.closeFrame hi).fbuf dev = frameValue d.fbuf dev := by
    simp only [HostDecoder.closeFrame, hk, frameValue_set]
  rw [hfirst, hvalue]

/-- Only two lengths make a valid frame, each with its own devices (43_frame_decoder.md R198). -/
theorem frameOf_closeFrame_eq_none {d : HostDecoder} (hi : d.fcur.toNat < 6)
    (hm : ¬ (d.fcur.toNat = 2 ∧ d.fbuf[0] = 0x01#8))
    (hw : ¬ (d.fcur.toNat = 5 ∧ (d.fbuf[0] = 0x02#8 ∨ d.fbuf[0] = 0x03#8))) :
    frameOf (d.closeFrame hi).fbuf d.fcur.toNat = none := by
  refine Option.eq_none_iff_forall_ne_some.mpr fun f hframe => ?_
  obtain ⟨dev, hdev, hk, _⟩ := (frameOf_closeFrame_eq_some hi).mp hframe
  cases dev with
  | motor => exact hm ⟨hk, hdev⟩
  | accelerometer => exact hw ⟨hk, .inl hdev⟩
  | temperatureSensor => exact hw ⟨hk, .inr hdev⟩

/-- Settles O44: the frame is valid exactly for the two lengths with their devices, and its value is read from the bytes
captured. -/
theorem rxFinalizes : Obligations.RxFinalizes := by
  rintro s k hf rfl hk
  have hi : s.host.fcur.toNat < 6 := Nat.lt_succ_of_le hk
  refine ⟨(s.host.closeFrame hi).fbuf, getElem_set_fin _ _ hi, fun h2 hdev => ?_, fun h5 hdev => ?_, fun hm hw => ?_⟩
  · have hframe := (frameOf_closeFrame_eq_some hi).mpr ⟨.motor, hdev, h2, rfl⟩
    have hextend : s.host.fbuf[1].setWidth 32 = 0#24 ++ s.host.fbuf[1] := BitVec.setWidth_eq_append (by decide)
    rw [exec_endDelim hf hi, hframe, hdev, ← hextend]
    rfl
  · have hframe : frameOf (s.host.closeFrame hi).fbuf s.host.fcur.toNat =
        some (s.host.fbuf[0], bytesWord s.host.fbuf[1] s.host.fbuf[2] s.host.fbuf[3] s.host.fbuf[4]) := by
      rw [frameOf_closeFrame_eq_some]
      rcases hdev with hdev | hdev
      · exact ⟨.accelerometer, hdev, h5, rfl⟩
      · exact ⟨.temperatureSensor, hdev, h5, rfl⟩
    rw [exec_endDelim hf hi, hframe]
    rfl
  · rw [exec_endDelim hf hi, frameOf_closeFrame_eq_none hi hm hw]
    rfl

/-! ## What a whole RXBYTE can emit and store -/

/-- What a decoder emitted between `d` and `d'`: nothing, or the one pair now in `FR_DEV` and `FR_VAL`
(43_frame_decoder.md R190, R200). -/
inductive Emits (d d' : HostDecoder) : Prop
  | nothing (hvalid : d'.frValid = false) (hframes : d'.frames = d.frames) (hdev : d'.frDev = d.frDev)
      (hval : d'.frVal = d.frVal)
  | pair (hvalid : d'.frValid = true) (hframes : d'.frames = d.frames ++ [(d'.frDev, d'.frVal)])

theorem emits_of_rxByte {d d' : HostDecoder} {b : Byte} (h : d.rxByte b = some d') : Emits d d' := by
  rcases rxByte_cases d b with ⟨_, _, e⟩ | ⟨_, _, e⟩ | ⟨_, _, e⟩ | ⟨_, _, _, e⟩ | ⟨_, _, _, e⟩ | ⟨_, _, _, _, e⟩ <;>
    rw [e] at h
  · cases h; exact .nothing rfl rfl rfl rfl
  · cases h; exact .nothing rfl rfl rfl rfl
  · cases h; exact .nothing rfl rfl rfl rfl
  · cases h; exact .nothing rfl rfl rfl rfl
  · obtain ⟨_, ⟨_, rfl⟩ | ⟨f, _, rfl⟩⟩ := finalize_some h
    · exact .nothing rfl rfl rfl rfl
    · exact .pair rfl rfl
  · obtain ⟨_, rfl⟩ := storeByte_some h
    exact .nothing rfl rfl rfl rfl

theorem exec_rxbyte_of_some {s : State} {b : Byte} {d : HostDecoder} (h : s.host.rxByte b = some d) :
    exec (.rxbyte b) s = .next { s with host := d } :=
  congrArg s.withHost h

/-- Settles O45: the decoder answers on its invariant and keeps it, and `FR_VALID` tells the two cases of `Emits` apart. -/
theorem rxByteNeverFails : Obligations.RxByteNeverFails := by
  intro s b hd
  obtain ⟨d, h⟩ := hd.rxByte_answers b
  refine ⟨d, exec_rxbyte_of_some h, hd.rxByte h, ?_⟩
  cases emits_of_rxByte h with
  | nothing hvalid hframes hdev hval => simp [hvalid, hframes, hdev, hval]
  | pair hvalid hframes => simp [hvalid, hframes]

/-- An RXBYTE writes at most one slot of the buffer, and never a start delimiter (43_frame_decoder.md R201). -/
theorem rxByte_fbuf {d d' : HostDecoder} {b : Byte} (h : d.rxByte b = some d') :
    d'.fbuf = d.fbuf ∨ ∃ c ≠ startDelim, ∃ hi : d.fcur.toNat < 6, d'.fbuf = d.fbuf.set d.fcur.toNat c hi := by
  rcases rxByte_cases d b with ⟨_, _, e⟩ | ⟨_, _, e⟩ | ⟨_, _, e⟩ | ⟨_, _, _, e⟩ | ⟨_, _, _, e⟩ | ⟨_, hs, _, _, e⟩ <;>
    rw [e] at h
  · cases h; exact .inl rfl
  · cases h; exact .inl rfl
  · cases h; exact .inl rfl
  · cases h; exact .inl rfl
  · obtain ⟨hi, ⟨_, rfl⟩ | ⟨_, _, rfl⟩⟩ := finalize_some h <;> exact .inr ⟨endDelim, by decide, hi, rfl⟩
  · obtain ⟨hi, rfl⟩ := storeByte_some h
    exact .inr ⟨b, hs, hi, rfl⟩

/-- Settles O47: the slot holds what it held, or a byte that is no start delimiter. -/
theorem startDelimiterNeverStored : Obligations.StartDelimiterNeverStored := by
  intro s t b j h hj
  obtain ⟨d, hd, rfl⟩ := withHost_next h
  rcases rxByte_fbuf hd with hbuf | ⟨c, hc, hi, hbuf⟩
  · exact hbuf ▸ hj
  · rw [hbuf, getElem_set_fin] at hj
    split at hj
    · exact absurd hj hc
    · exact hj

/-! ## A frame without in-band delimiters -/

/-- Settles O48: the run over the schedule is the decoder's fold over the frame's bytes, which delivers the pair. -/
theorem cleanFrameDelivered : Obligations.CleanFrameDelivered := by
  intro s dev val hf ha hclean
  obtain ⟨d, hd, hfin, hfcur, hvalid, hdev, hval, hframes⟩ := foldlM_rxByte_frameEncode hf hclean
  exact ⟨_, runSteps_byteScript ha hd, hframes, hfin, hfcur, hvalid, hdev, hval, rfl, rfl, rfl⟩

end Sys2Proof.Machine
end

section
/-! The statement about the completion interrupt: its one source and its one destination (60_exceptions.md R218). -/

namespace Sys2Proof.Machine

/-- A completion in a state with no interrupt pending raises one exactly when it is enabled and `IEN = 1` (10_state.md R30,
60_exceptions.md R218). -/
theorem phyMove_irq_iff {s : State} (hi : s.port.irq = false) (st : Byte) (rx : Option Byte) :
    (s.phyMove st rx).port.irq = true ↔ s.port.ien = true ∧ s.port.done = false := by
  cases hd : s.port.done <;> simp [phyMove_eq, hd, hi]

/-- No agent's move but the completion raises the interrupt: an arm action of the foreground leaves the request as it was,
a reset clears it, and the others do not write the port. -/
theorem performMove_irq_of_ne_phy {m : Move} {s t : State} (hi : s.port.irq = false) (hm : ∀ st rx, m ≠ .phy st rx)
    (h : performMove m s = .next t) : t.port.irq = false := by
  cases m with
  | node =>
    rcases nodeStep_cases h with ⟨hpending, _⟩ | ⟨_, hf⟩
    · exact absurd hpending (by simp [hi])
    · exact (foregroundStep_move hf).arms.irq_eq.trans hi
  | writeCmd w => cases h; rw [writeCmd_eq]; exact hi
  | phy st rx => exact absurd rfl (hm st rx)
  | rxByte b => obtain ⟨_, _, rfl⟩ := hostStep_next h; exact hi
  | peripherals | resetHost => cases h; exact hi
  | resetNode st => cases h; rfl

theorem performMove_irq_iff {m : Move} {s t : State} (hi : s.port.irq = false) (h : performMove m s = .next t) :
    t.port.irq = true ↔ s.port.ien = true ∧ s.port.done = false ∧ ∃ st rx, m = .phy st rx := by
  by_cases hphy : ∃ st rx, m = .phy st rx
  · obtain ⟨st, rx, rfl⟩ := hphy
    cases h
    simp [phyMove_irq_iff hi]
  · have hkept := performMove_irq_of_ne_phy hi (fun st rx he => hphy ⟨st, rx, he⟩) h
    simp [hkept, hphy]

/-- Settles O17: the step is the move that heads the schedule, of which only the completion raises the interrupt; the node
serves a pending one by the handler, which dispatches on the decoded event. -/
theorem onlyCompletionRaisesInterrupt : Obligations.OnlyCompletionRaisesInterrupt := by
  refine ⟨fun s t h hi => ?_, fun s hi => nodeStep_of_irq hi⟩
  rw [step_eq_performMove] at h
  have hhead : (∃ st rx, s.agenda.headD .node = .phy st rx) ↔ ∃ st rx, s.agenda.head? = some (.phy st rx) :=
    exists_congr fun _ => exists_congr fun _ => headD_node_eq_iff nofun
  rw [← hhead]
  exact performMove_irq_iff (s := { s with agenda := s.agenda.tail }) hi h

end Sys2Proof.Machine
end

section
/-! The statements about reset and about frames with in-band delimiters: the reset values, the two resets as steps, and
what a pair emitted by the decoder says about the bytes delivered to it (70_reset_and_hazards.md R240 to R242, R256). -/

namespace Sys2Proof.Machine

/-! ## The two resets (70_reset_and_hazards.md R240 to R242) -/

/-- Settles O54: every value is the one the reset functions write. -/
theorem resetValues : Obligations.ResetValues := by
  unfold Obligations.ResetValues
  decide

/-- Settles O55: the reset heads the schedule, so the step is `resetNode` or `resetHost`, each of which writes its own
instance only. -/
theorem resetsAreIndependent : Obligations.ResetsAreIndependent :=
  fun _ _ => ⟨fun _ ha => step_of_agenda_cons ha, fun _ ha => step_of_agenda_cons ha⟩

/-! ## What one byte says about the decoder after it -/

/-- A decoder inside a frame has just begun its capture, or has stored one more byte that is no delimiter
(43_frame_decoder.md R191, R193, R196). -/
theorem capture_of_rxByte {d d' : HostDecoder} {b : Byte} (h : d.rxByte b = some d') (hf : d'.fin = true) :
    (b = startDelim ∧ d'.fcur = 0#3) ∨
    (d.fin = true ∧ b ≠ startDelim ∧ b ≠ endDelim ∧ d'.fcur.toNat = d.fcur.toNat + 1) := by
  rcases rxByte_cases d b with ⟨_, hs, e⟩ | ⟨hout, _, e⟩ | ⟨_, hs, e⟩ | ⟨_, _, _, e⟩ | ⟨_, _, _, e⟩ |
    ⟨hin, hs, he, _, e⟩ <;> rw [e] at h
  · cases h; exact .inl ⟨hs, rfl⟩
  · cases h; exact absurd (hout.symm.trans hf) nofun
  · cases h; exact .inl ⟨hs, rfl⟩
  · cases h; exact absurd hf nofun
  · obtain ⟨_, ⟨_, rfl⟩ | ⟨_, _, rfl⟩⟩ := finalize_some h <;> exact absurd hf nofun
  · obtain ⟨hi, rfl⟩ := storeByte_some h
    exact .inr ⟨hin, hs, he, toNat_add_one_of_lt (hi.trans (by decide))⟩

/-- Only an end delimiter inside a frame emits, and only after a device byte and as many bytes as the device's payload
has (43_frame_decoder.md R195, R198). -/
theorem frames_of_rxByte {d d' : HostDecoder} {b : Byte} (h : d.rxByte b = some d') :
    d'.frames = d.frames ∨
    ∃ dev val, d.fin = true ∧ b = endDelim ∧ d.fcur.toNat = 1 + payLen dev ∧
      d'.frames = d.frames ++ [(dev.code, val)] := by
  rcases rxByte_cases d b with ⟨_, _, e⟩ | ⟨_, _, e⟩ | ⟨_, _, e⟩ | ⟨_, _, _, e⟩ | ⟨hin, he, _, e⟩ | ⟨_, _, _, _, e⟩ <;>
    rw [e] at h
  · cases h; exact .inl rfl
  · cases h; exact .inl rfl
  · cases h; exact .inl rfl
  · cases h; exact .inl rfl
  · obtain ⟨_, ⟨_, rfl⟩ | ⟨f, hframe, rfl⟩⟩ := finalize_some h
    · exact .inl rfl
    · obtain ⟨dev, hdev, hk, rfl⟩ := frameOf_eq_some.mp hframe
      exact .inr ⟨dev, _, hin, he, hk, by rw [← hdev]; rfl⟩
  · obtain ⟨_, rfl⟩ := storeByte_some h
    exact .inl rfl

/-! ## What an emitted pair says about the bytes read -/

/-- Among the bytes read, a start and an end delimiter enclose as many bytes as a frame of the pair's device has, none
of them a delimiter. -/
def ReadFrameOf (read : List Byte) (f : Byte × Word) : Prop :=
  ∃ dev bs, f.1 = DeviceId.code dev ∧ bs.length = 1 + payLen dev ∧ NoDelimiter bs ∧
    startDelim :: bs ++ [endDelim] <:+: read

/-- What a decoder that has read these bytes holds, and what it has emitted after `old`: the capture under way is the
delimiter-free end of the bytes read after a start delimiter, and each emitted pair came from such a capture. -/
structure HasRead (old : List (Byte × Word)) (read : List Byte) (d : HostDecoder) : Prop where
  capture : d.fin = true → ∃ bs, d.fcur.toNat = bs.length ∧ NoDelimiter bs ∧ startDelim :: bs <:+ read
  emitted : ∃ out, d.frames = old ++ out ∧ ∀ f ∈ out, ReadFrameOf read f

theorem ReadFrameOf.append {read : List Byte} {f : Byte × Word} (h : ReadFrameOf read f) (b : Byte) :
    ReadFrameOf (read ++ [b]) f := by
  obtain ⟨dev, bs, hdev, hlen, hclean, hread⟩ := h
  exact ⟨dev, bs, hdev, hlen, hclean, hread.trans (List.prefix_append read [b]).isInfix⟩

theorem HasRead.of_outside {d : HostDecoder} (hf : d.fin = false) : HasRead d.frames [] d :=
  ⟨fun hin => absurd (hf.symm.trans hin) nofun, [], by simp, by simp⟩

theorem HasRead.rxByte {old : List (Byte × Word)} {read : List Byte} {d d' : HostDecoder} {b : Byte}
    (hd : HasRead old read d) (h : d.rxByte b = some d') : HasRead old (read ++ [b]) d' := by
  constructor
  case capture =>
    intro hf
    rcases capture_of_rxByte h hf with ⟨rfl, hcur⟩ | ⟨hin, hs, he, hcur⟩
    · exact ⟨[], by simp [hcur], List.forall_mem_nil _, List.suffix_append read _⟩
    · obtain ⟨bs, hlen, hclean, hread⟩ := hd.capture hin
      refine ⟨bs ++ [b], by simp [hcur, hlen], ?_, List.suffix_append_self_iff.mpr hread⟩
      exact List.forall_mem_append.mpr ⟨hclean, List.forall_mem_singleton.mpr ⟨hs, he⟩⟩
  case emitted =>
    obtain ⟨out, hframes, hout⟩ := hd.emitted
    have hkept : ∀ f ∈ out, ReadFrameOf (read ++ [b]) f := fun f hf => (hout f hf).append b
    rcases frames_of_rxByte h with hsame | ⟨dev, val, hin, rfl, hcur, hmore⟩
    · exact ⟨out, hsame.trans hframes, hkept⟩
    · obtain ⟨bs, hlen, hclean, hread⟩ := hd.capture hin
      have hnew : ReadFrameOf (read ++ [endDelim]) (dev.code, val) :=
        ⟨dev, bs, rfl, hlen.symm.trans hcur, hclean, (List.suffix_append_self_iff.mpr hread).isInfix⟩
      refine ⟨out ++ [(dev.code, val)], by rw [hmore, hframes, List.append_assoc], ?_⟩
      exact List.forall_mem_append.mpr ⟨hkept, List.forall_mem_singleton.mpr hnew⟩

theorem HasRead.foldlM_rxByte {old : List (Byte × Word)} {read bs : List Byte} {d d' : HostDecoder}
    (hd : HasRead old read d) (h : bs.foldlM HostDecoder.rxByte d = some d') : HasRead old (read ++ bs) d' := by
  induction bs generalizing read d with
  | nil => cases h; simpa using hd
  | cons b bs ih =>
    obtain ⟨d1, h1, hrest⟩ := Option.bind_eq_some_iff.mp h
    simpa using ih (hd.rxByte h1) hrest

/-! ## A frame with an in-band delimiter (70_reset_and_hazards.md R256) -/

theorem runSteps_succ_next {s t : State} {n : Nat} (h : runSteps (n + 1) s = .next t) :
    ∃ s1, step s = .next s1 ∧ runSteps n s1 = .next t := by
  simp only [runSteps, Host.Core.run] at h
  split at h
  · next s1 hstep => exact ⟨s1, hstep, h⟩
  · cases h
  · cases h

/-- A run over delivered bytes that answers has folded the decoder over them (60_exceptions.md R233). -/
theorem foldlM_rxByte_of_runSteps {bs : List Byte} {s t : State} (ha : s.agenda = byteScript bs)
    (h : runSteps bs.length s = .next t) : bs.foldlM HostDecoder.rxByte s.host = some t.host := by
  induction bs generalizing s with
  | nil => cases h; rfl
  | cons b bs ih =>
    obtain ⟨s1, hstep, hrest⟩ := runSteps_succ_next h
    rw [step_of_agenda_cons ha] at hstep
    obtain ⟨d, hd, rfl⟩ := hostStep_next hstep
    exact Option.bind_eq_some_iff.mpr ⟨d, hd, ih rfl hrest⟩

/-- Two delimiters that enclose as many bytes as a frame of the device has, found in such a frame, are the frame's own,
so its payload holds no delimiter. -/
theorem noDelimiter_of_readFrameOf {dev : DeviceId} {val v : Word}
    (h : ReadFrameOf (frameEncode dev val) (dev.code, v)) : NoDelimiter (payloadBytes dev val) := by
  obtain ⟨dev', bs, hdev, hlen, hclean, hread⟩ := h
  obtain rfl : dev = dev' := Option.some_inj.mp ((ofByte_code dev).symm.trans (ofByte_eq_some.mpr hdev))
  have hwhole : startDelim :: bs ++ [endDelim] = frameEncode dev val :=
    hread.eq_of_length (by simp [frameEncode, length_payloadBytes, hlen]; omega)
  have hbs : bs = dev.code :: payloadBytes dev val := List.append_cancel_right (List.cons_inj_right _ |>.mp hwhole)
  exact (List.forall_mem_cons.mp (hbs ▸ hclean)).2

/-- Settles O49: an emission of the frame's own pair would need the whole frame to be a capture free of delimiters. -/
theorem inBandDelimiterLosesFrame : Obligations.InBandDelimiterLosesFrame := by
  intro s t dev val hf ha hdelim hrun
  have hread := (HasRead.of_outside hf).foldlM_rxByte (foldlM_rxByte_of_runSteps ha hrun)
  obtain ⟨out, hframes, hout⟩ := hread.emitted
  exact ⟨out, hframes, fun hown => hdelim (noDelimiter_of_readFrameOf (hout _ hown))⟩

end Sys2Proof.Machine
end
